-- ==== Sys2Proof/Word.lean ====
section
/-!
DEFINITION. The two word types of the hardware: the byte of a register or a memory cell, and the 16-bit word of an
address, the program counter and the stack pointer (00_scope.md R9, R10).
-/

namespace Sys2Proof

/-- An 8-bit register or memory cell. -/
abbrev Byte := BitVec 8

/-- A 16-bit address, the program counter, the stack pointer or a register pair's value. -/
abbrev Word := BitVec 16

end Sys2Proof
end

