-- ==== Sys2Proof/Syntax.lean ====
section
/-!
DEFINITION. The instruction set as syntax: one constructor of `Instr` per row of spec/opcode_table.json, with its
operands (30_encoding.md R204 to R211, R217).
-/

namespace Sys2Proof

/-- The 8-bit registers an encoding can name with a 3-bit code (R205); code 6 is the byte at HL and no register. -/
inductive Reg8 where
  | b | c | d | e | h | l | a
deriving DecidableEq, Repr

/-- The 2-bit pair codes `rr` (R205). -/
inductive Reg16 where
  | bc | de | hl | sp
deriving DecidableEq, Repr

/-- The pairs of `PUSH rr` and `POP rr`: the codes `qq` (R205) but for 3, which is AF and has rows of its own. -/
inductive StackPair where
  | bc | de | hl
deriving DecidableEq, Repr

/-- The condition codes `cc` (R205, 45_control_flow.md R450). -/
inductive Cond where
  | nz | z | nc | c
deriving DecidableEq, Repr

/-- The two dispatch tables (30_encoding.md R201, R209): on the first byte, and on the byte after 0xCB. -/
inductive OpTable where
  | base | cb
deriving DecidableEq, Repr

/-- The instructions, in the order of spec/opcode_table.json. -/
inductive Instr where
  -- 8-bit loads (40_load8.md R250 to R268)
  | ldRR (dst src : Reg8)
  | ldRN (dst : Reg8) (n : Byte)
  | ldRHl (dst : Reg8)
  | ldHlR (src : Reg8)
  | ldHlN (n : Byte)
  | ldABc
  | ldADe
  | ldBcA
  | ldDeA
  | ldANn (nn : Word)
  | ldNnA (nn : Word)
  | ldhAC
  | ldhCA
  | ldhAN (n : Byte)
  | ldhNA (n : Byte)
  | ldAHlDec
  | ldHlDecA
  | ldAHlInc
  | ldHlIncA
  -- 16-bit loads and the stack (41_load16_stack.md R300 to R309)
  | ldRrNn (p : Reg16) (nn : Word)
  | ldNnSp (nn : Word)
  | ldSpHl
  | pushRr (p : StackPair)
  | pushAf
  | popRr (p : StackPair)
  | popAf
  -- 8-bit arithmetic and logic (42_alu8.md R334 to R365)
  | addAR (src : Reg8)
  | addAHl
  | addAN (n : Byte)
  | adcAR (src : Reg8)
  | adcAHl
  | adcAN (n : Byte)
  | subR (src : Reg8)
  | subHl
  | subN (n : Byte)
  | sbcAR (src : Reg8)
  | sbcAHl
  | sbcAN (n : Byte)
  | andR (src : Reg8)
  | andHl
  | andN (n : Byte)
  | xorR (src : Reg8)
  | xorHl
  | xorN (n : Byte)
  | orR (src : Reg8)
  | orHl
  | orN (n : Byte)
  | cpR (src : Reg8)
  | cpHl
  | cpN (n : Byte)
  | incR (dst : Reg8)
  | incHl
  | decR (dst : Reg8)
  | decHl
  | daa
  | cpl
  | scf
  | ccf
  -- 16-bit arithmetic (43_alu16.md R380 to R385)
  | addHlRr (p : Reg16)
  | incRr (p : Reg16)
  | decRr (p : Reg16)
  | addSpE (e : Byte)
  | ldHlSpE (e : Byte)
  -- accumulator rotates (44_rotate_shift_bit.md R401 to R404)
  | rlca
  | rrca
  | rla
  | rra
  -- control transfer (45_control_flow.md R451 to R462)
  | jpNn (nn : Word)
  | jpCcNn (cc : Cond) (nn : Word)
  | jpHl
  | jrE (e : Byte)
  | jrCcE (cc : Cond) (e : Byte)
  | callNn (nn : Word)
  | callCcNn (cc : Cond) (nn : Word)
  | ret
  | retCc (cc : Cond)
  | reti
  | rstT (t : Fin 8)
  -- NOP, HALT, STOP, interrupt enable, prefix, illegal bytes (46_misc_control.md R490 to R496)
  | nop
  | halt
  | stop (n : Byte)
  | di
  | ei
  | prefixCb (op2 : Byte)
  | illegal (op : Byte)
  -- prefixed rotates, shifts and bit operations (44_rotate_shift_bit.md R405 to R426)
  | rlcR (z : Reg8)
  | rlcHl
  | rrcR (z : Reg8)
  | rrcHl
  | rlR (z : Reg8)
  | rlHl
  | rrR (z : Reg8)
  | rrHl
  | slaR (z : Reg8)
  | slaHl
  | sraR (z : Reg8)
  | sraHl
  | swapR (z : Reg8)
  | swapHl
  | srlR (z : Reg8)
  | srlHl
  | bitR (b : Fin 8) (z : Reg8)
  | bitHl (b : Fin 8)
  | resR (b : Fin 8) (z : Reg8)
  | resHl (b : Fin 8)
  | setR (b : Fin 8) (z : Reg8)
  | setHl (b : Fin 8)
deriving DecidableEq, Repr

end Sys2Proof
end

