-- ==== Sys2Proof/WellFormed.lean ====
section
/-!
DEFINITION. Which terms of `Instr` are instructions a program can hold. The operand types already exclude register
code 6 and pair code 3 where a row excludes them, so two checks are left.
-/

namespace Sys2Proof

/-- The eleven first bytes the instruction set does not define (30_encoding.md R211). -/
def illegalOpcodes : List Byte :=
  [0xD3, 0xDB, 0xDD, 0xE3, 0xE4, 0xEB, 0xEC, 0xED, 0xF4, 0xFC, 0xFD]

/-- Why a term of `Instr` is no instruction. -/
inductive IllFormed where
  /-- `illegal op` names a byte that is not one of the eleven of R211. -/
  | notAnIllegalOpcode
  /-- `prefixCb op2` alone: "Opcode 0xCB is not an instruction by itself" (R210, log entry 10). The bytes 0xCB, op2
  are the prefixed instruction of R209. -/
  | prefixAlone
deriving DecidableEq, Repr

namespace Instr

/-- What is wrong with a term, if anything. -/
def illFormed : Instr → Option IllFormed
  | .illegal op => if op ∈ illegalOpcodes then none else some .notAnIllegalOpcode
  | .prefixCb _ => some .prefixAlone
  | _ => none

/-- The term is an instruction. -/
abbrev WellFormed (i : Instr) : Prop := i.illFormed = none

end Instr

end Sys2Proof
end

