-- ==== Sys2Proof/Decode.lean ====
section
/-!
DEFINITION. From bytes to instructions and back: the fields of an opcode byte, the two maps, the lengths, the decoder,
and the encoder written from the same tables (30_encoding.md R202 to R211, R216).
-/

namespace Sys2Proof

/-! ### Bytes of a word (00_scope.md R11) -/

/-- `hi8(w)`: bits 15 to 8. -/
def hi8 (w : Word) : Byte := .ofNat 8 (w.toNat / 256)

/-- `lo8(w)`: bits 7 to 0. -/
def lo8 (w : Word) : Byte := .ofNat 8 w.toNat

/-- `h : l = h * 256 + l`: `h` in bits 15 to 8. -/
def joinBytes (h l : Byte) : Word := .ofNat 16 (h.toNat * 256 + l.toNat)

/-! ### Operand codes (R205) -/

/-- The register of a 3-bit code; code 6 is the byte at HL and gives none. -/
def reg8OfCode : Nat → Option Reg8
  | 0 => some .b
  | 1 => some .c
  | 2 => some .d
  | 3 => some .e
  | 4 => some .h
  | 5 => some .l
  | 7 => some .a
  | _ => none

def reg16OfCode : Nat → Reg16
  | 0 => .bc
  | 1 => .de
  | 2 => .hl
  | _ => .sp

def condOfCode : Nat → Cond
  | 0 => .nz
  | 1 => .z
  | 2 => .nc
  | _ => .c

def Reg8.code : Reg8 → Nat
  | .b => 0
  | .c => 1
  | .d => 2
  | .e => 3
  | .h => 4
  | .l => 5
  | .a => 7

def Reg16.code : Reg16 → Nat
  | .bc => 0
  | .de => 1
  | .hl => 2
  | .sp => 3

def StackPair.code : StackPair → Nat
  | .bc => 0
  | .de => 1
  | .hl => 2

def Cond.code : Cond → Nat
  | .nz => 0
  | .z => 1
  | .nc => 2
  | .c => 3

/-! ### The unprefixed map (R208), by the fields `x = op[7:6]`, `y = op[5:3]`, `z = op[2:0]`, `p = y / 2`, `q = y % 2`.
`n` is the byte after the opcode, `nn` the two bytes after it, low byte first (R206). -/

/-- The quarter `x = 0`. -/
def decodeX0 (y z : Nat) (n : Byte) (nn : Word) : Instr :=
  match z with
  | 0 =>
    match y with
    | 0 => .nop
    | 1 => .ldNnSp nn
    | 2 => .stop n
    | 3 => .jrE n
    | _ => .jrCcE (condOfCode (y - 4)) n
  | 1 => if y % 2 = 0 then .ldRrNn (reg16OfCode (y / 2)) nn else .addHlRr (reg16OfCode (y / 2))
  | 2 =>
    match y with
    | 0 => .ldBcA
    | 1 => .ldABc
    | 2 => .ldDeA
    | 3 => .ldADe
    | 4 => .ldHlIncA
    | 5 => .ldAHlInc
    | 6 => .ldHlDecA
    | _ => .ldAHlDec
  | 3 => if y % 2 = 0 then .incRr (reg16OfCode (y / 2)) else .decRr (reg16OfCode (y / 2))
  | 4 =>
    match reg8OfCode y with
    | some r => .incR r
    | none => .incHl
  | 5 =>
    match reg8OfCode y with
    | some r => .decR r
    | none => .decHl
  | 6 =>
    match reg8OfCode y with
    | some r => .ldRN r n
    | none => .ldHlN n
  | _ =>
    match y with
    | 0 => .rlca
    | 1 => .rrca
    | 2 => .rla
    | 3 => .rra
    | 4 => .daa
    | 5 => .cpl
    | 6 => .scf
    | _ => .ccf

/-- The quarter `x = 1`: the register loads, with HALT where both codes are 6. -/
def decodeX1 (y z : Nat) : Instr :=
  match reg8OfCode y, reg8OfCode z with
  | some dst, some src => .ldRR dst src
  | some dst, none => .ldRHl dst
  | none, some src => .ldHlR src
  | none, none => .halt

/-- The quarter `x = 2`: `alu[y] r[z]`. -/
def decodeX2 (y z : Nat) : Instr :=
  match y, reg8OfCode z with
  | 0, some src => .addAR src
  | 0, none => .addAHl
  | 1, some src => .adcAR src
  | 1, none => .adcAHl
  | 2, some src => .subR src
  | 2, none => .subHl
  | 3, some src => .sbcAR src
  | 3, none => .sbcAHl
  | 4, some src => .andR src
  | 4, none => .andHl
  | 5, some src => .xorR src
  | 5, none => .xorHl
  | 6, some src => .orR src
  | 6, none => .orHl
  | _, some src => .cpR src
  | _, none => .cpHl

/-- The map after the prefix (R209): `rot[y] r[z]`, `BIT y,r[z]`, `RES y,r[z]`, `SET y,r[z]`; `z = 6` is the form on
the byte at HL. -/
def decodeCb (op2 : Byte) : Instr :=
  let y := op2.toNat / 8 % 8
  let r := reg8OfCode (op2.toNat % 8)
  match op2.toNat / 64 with
  | 0 =>
    match y, r with
    | 0, some r => .rlcR r
    | 0, none => .rlcHl
    | 1, some r => .rrcR r
    | 1, none => .rrcHl
    | 2, some r => .rlR r
    | 2, none => .rlHl
    | 3, some r => .rrR r
    | 3, none => .rrHl
    | 4, some r => .slaR r
    | 4, none => .slaHl
    | 5, some r => .sraR r
    | 5, none => .sraHl
    | 6, some r => .swapR r
    | 6, none => .swapHl
    | _, some r => .srlR r
    | _, none => .srlHl
  | 1 =>
    match r with
    | some r => .bitR (Fin.ofNat 8 y) r
    | none => .bitHl (Fin.ofNat 8 y)
  | 2 =>
    match r with
    | some r => .resR (Fin.ofNat 8 y) r
    | none => .resHl (Fin.ofNat 8 y)
  | _ =>
    match r with
    | some r => .setR (Fin.ofNat 8 y) r
    | none => .setHl (Fin.ofNat 8 y)

/-- The quarter `x = 3`. The bytes no field combination defines are the illegal ones (R211). -/
def decodeX3 (op : Byte) (y z : Nat) (n : Byte) (nn : Word) : Instr :=
  match z with
  | 0 =>
    match y with
    | 4 => .ldhNA n
    | 5 => .addSpE n
    | 6 => .ldhAN n
    | 7 => .ldHlSpE n
    | _ => .retCc (condOfCode y)
  | 1 =>
    match y with
    | 0 => .popRr .bc
    | 2 => .popRr .de
    | 4 => .popRr .hl
    | 6 => .popAf
    | 1 => .ret
    | 3 => .reti
    | 5 => .jpHl
    | _ => .ldSpHl
  | 2 =>
    match y with
    | 4 => .ldhCA
    | 5 => .ldNnA nn
    | 6 => .ldhAC
    | 7 => .ldANn nn
    | _ => .jpCcNn (condOfCode y) nn
  | 3 =>
    match y with
    | 0 => .jpNn nn
    | 1 => decodeCb n
    | 6 => .di
    | 7 => .ei
    | _ => .illegal op
  | 4 => if y < 4 then .callCcNn (condOfCode y) nn else .illegal op
  | 5 =>
    match y with
    | 0 => .pushRr .bc
    | 2 => .pushRr .de
    | 4 => .pushRr .hl
    | 6 => .pushAf
    | 1 => .callNn nn
    | _ => .illegal op
  | 6 =>
    match y with
    | 0 => .addAN n
    | 1 => .adcAN n
    | 2 => .subN n
    | 3 => .sbcAN n
    | 4 => .andN n
    | 5 => .xorN n
    | 6 => .orN n
    | _ => .cpN n
  | _ => .rstT (Fin.ofNat 8 y)

/-- The instruction whose opcode byte is `op` and whose next two bytes are `b1` and `b2`, of which it takes as many as
it is long (R208). Total: every byte is a defined instruction or an illegal one (R213). -/
def decodeOne (op b1 b2 : Byte) : Instr :=
  let y := op.toNat / 8 % 8
  let z := op.toNat % 8
  let nn := joinBytes b2 b1
  match op.toNat / 64 with
  | 0 => decodeX0 y z b1 nn
  | 1 => decodeX1 y z
  | 2 => decodeX2 y z
  | _ => decodeX3 op y z b1 nn

/-! ### Lengths (R216) -/

/-- The first bytes of three-byte instructions: format `OP_NN`. -/
def threeByteOpcodes : List Byte :=
  [0x01, 0x11, 0x21, 0x31, 0x08, 0xC2, 0xCA, 0xD2, 0xDA, 0xC3, 0xC4, 0xCC, 0xD4, 0xDC, 0xCD, 0xEA, 0xFA]

/-- The first bytes of two-byte instructions: formats `OP_N`, `OP_E` and `CB_OP`. -/
def twoByteOpcodes : List Byte :=
  [0x06, 0x0E, 0x16, 0x1E, 0x26, 0x2E, 0x36, 0x3E] ++
  [0xC6, 0xCE, 0xD6, 0xDE, 0xE6, 0xEE, 0xF6, 0xFE] ++
  [0xE0, 0xF0, 0x10, 0x18, 0x20, 0x28, 0x30, 0x38, 0xE8, 0xF8, 0xCB]

/-- The length of the instruction that starts with `op` (R202, R216). Of an illegal byte only the byte itself is
consumed. -/
def instrLength (op : Byte) : Nat :=
  if op ∈ threeByteOpcodes then 3 else if op ∈ twoByteOpcodes then 2 else 1

/-! ### The decoder -/

/-- Why bytes are no instruction. -/
inductive DecodeError where
  /-- There is no byte at all. -/
  | noBytes
  /-- The bytes end before the instruction does. -/
  | truncated
deriving DecidableEq, Repr

/-- Decode one instruction from the front of a list of bytes, with the bytes after it. -/
def decode : List Byte → Except DecodeError (Instr × List Byte)
  | [] => .error .noBytes
  | op :: rest =>
    if rest.length + 1 < instrLength op then .error .truncated
    else .ok (decodeOne op (rest.getD 0 0) (rest.getD 1 0), rest.drop (instrLength op - 1))

/-! ### The encoder -/

/-- The byte a row of spec/opcode_table.json matches on: the first byte, or, for a prefixed instruction, the byte after
0xCB (the `encoding` of each row, R217). -/
def Instr.matchedByte : Instr → Byte
  | .ldRR dst src => .ofNat 8 (0x40 + 8 * dst.code + src.code)
  | .ldRN dst _ => .ofNat 8 (0x06 + 8 * dst.code)
  | .ldRHl dst => .ofNat 8 (0x46 + 8 * dst.code)
  | .ldHlR src => .ofNat 8 (0x70 + src.code)
  | .ldHlN _ => 0x36
  | .ldABc => 0x0A
  | .ldADe => 0x1A
  | .ldBcA => 0x02
  | .ldDeA => 0x12
  | .ldANn _ => 0xFA
  | .ldNnA _ => 0xEA
  | .ldhAC => 0xF2
  | .ldhCA => 0xE2
  | .ldhAN _ => 0xF0
  | .ldhNA _ => 0xE0
  | .ldAHlDec => 0x3A
  | .ldHlDecA => 0x32
  | .ldAHlInc => 0x2A
  | .ldHlIncA => 0x22
  | .ldRrNn p _ => .ofNat 8 (0x01 + 16 * p.code)
  | .ldNnSp _ => 0x08
  | .ldSpHl => 0xF9
  | .pushRr p => .ofNat 8 (0xC5 + 16 * p.code)
  | .pushAf => 0xF5
  | .popRr p => .ofNat 8 (0xC1 + 16 * p.code)
  | .popAf => 0xF1
  | .addAR src => .ofNat 8 (0x80 + src.code)
  | .addAHl => 0x86
  | .addAN _ => 0xC6
  | .adcAR src => .ofNat 8 (0x88 + src.code)
  | .adcAHl => 0x8E
  | .adcAN _ => 0xCE
  | .subR src => .ofNat 8 (0x90 + src.code)
  | .subHl => 0x96
  | .subN _ => 0xD6
  | .sbcAR src => .ofNat 8 (0x98 + src.code)
  | .sbcAHl => 0x9E
  | .sbcAN _ => 0xDE
  | .andR src => .ofNat 8 (0xA0 + src.code)
  | .andHl => 0xA6
  | .andN _ => 0xE6
  | .xorR src => .ofNat 8 (0xA8 + src.code)
  | .xorHl => 0xAE
  | .xorN _ => 0xEE
  | .orR src => .ofNat 8 (0xB0 + src.code)
  | .orHl => 0xB6
  | .orN _ => 0xF6
  | .cpR src => .ofNat 8 (0xB8 + src.code)
  | .cpHl => 0xBE
  | .cpN _ => 0xFE
  | .incR dst => .ofNat 8 (0x04 + 8 * dst.code)
  | .incHl => 0x34
  | .decR dst => .ofNat 8 (0x05 + 8 * dst.code)
  | .decHl => 0x35
  | .daa => 0x27
  | .cpl => 0x2F
  | .scf => 0x37
  | .ccf => 0x3F
  | .addHlRr p => .ofNat 8 (0x09 + 16 * p.code)
  | .incRr p => .ofNat 8 (0x03 + 16 * p.code)
  | .decRr p => .ofNat 8 (0x0B + 16 * p.code)
  | .addSpE _ => 0xE8
  | .ldHlSpE _ => 0xF8
  | .rlca => 0x07
  | .rrca => 0x0F
  | .rla => 0x17
  | .rra => 0x1F
  | .jpNn _ => 0xC3
  | .jpCcNn cc _ => .ofNat 8 (0xC2 + 8 * cc.code)
  | .jpHl => 0xE9
  | .jrE _ => 0x18
  | .jrCcE cc _ => .ofNat 8 (0x20 + 8 * cc.code)
  | .callNn _ => 0xCD
  | .callCcNn cc _ => .ofNat 8 (0xC4 + 8 * cc.code)
  | .ret => 0xC9
  | .retCc cc => .ofNat 8 (0xC0 + 8 * cc.code)
  | .reti => 0xD9
  | .rstT t => .ofNat 8 (0xC7 + 8 * t.val)
  | .nop => 0x00
  | .halt => 0x76
  | .stop _ => 0x10
  | .di => 0xF3
  | .ei => 0xFB
  | .prefixCb _ => 0xCB
  | .illegal op => op
  | .rlcR z => .ofNat 8 (0x00 + z.code)
  | .rlcHl => 0x06
  | .rrcR z => .ofNat 8 (0x08 + z.code)
  | .rrcHl => 0x0E
  | .rlR z => .ofNat 8 (0x10 + z.code)
  | .rlHl => 0x16
  | .rrR z => .ofNat 8 (0x18 + z.code)
  | .rrHl => 0x1E
  | .slaR z => .ofNat 8 (0x20 + z.code)
  | .slaHl => 0x26
  | .sraR z => .ofNat 8 (0x28 + z.code)
  | .sraHl => 0x2E
  | .swapR z => .ofNat 8 (0x30 + z.code)
  | .swapHl => 0x36
  | .srlR z => .ofNat 8 (0x38 + z.code)
  | .srlHl => 0x3E
  | .bitR b z => .ofNat 8 (0x40 + 8 * b.val + z.code)
  | .bitHl b => .ofNat 8 (0x46 + 8 * b.val)
  | .resR b z => .ofNat 8 (0x80 + 8 * b.val + z.code)
  | .resHl b => .ofNat 8 (0x86 + 8 * b.val)
  | .setR b z => .ofNat 8 (0xC0 + 8 * b.val + z.code)
  | .setHl b => .ofNat 8 (0xC6 + 8 * b.val)

/-- Which dispatch table the row of an instruction belongs to (R217). -/
def Instr.table : Instr → OpTable
  | .rlcR _ | .rlcHl | .rrcR _ | .rrcHl | .rlR _ | .rlHl | .rrR _ | .rrHl => .cb
  | .slaR _ | .slaHl | .sraR _ | .sraHl | .swapR _ | .swapHl | .srlR _ | .srlHl => .cb
  | .bitR _ _ | .bitHl _ | .resR _ _ | .resHl _ | .setR _ _ | .setHl _ => .cb
  | _ => .base

/-- The bytes after the opcode byte of an unprefixed instruction (R204): nothing, `n` or `e`, or `nn` low byte
first. -/
def Instr.operandBytes : Instr → List Byte
  | .ldRN _ n | .ldHlN n | .ldhAN n | .ldhNA n => [n]
  | .addAN n | .adcAN n | .subN n | .sbcAN n | .andN n | .xorN n | .orN n | .cpN n => [n]
  | .addSpE e | .ldHlSpE e | .jrE e | .jrCcE _ e => [e]
  | .stop n | .prefixCb n => [n]
  | .ldANn nn | .ldNnA nn | .ldRrNn _ nn | .ldNnSp nn => [lo8 nn, hi8 nn]
  | .jpNn nn | .jpCcNn _ nn | .callNn nn | .callCcNn _ nn => [lo8 nn, hi8 nn]
  | _ => []

/-- The bytes of an instruction, in ascending address order (R204). -/
def encode (i : Instr) : List Byte :=
  match i.table with
  | .base => i.matchedByte :: i.operandBytes
  | .cb => [0xCB, i.matchedByte]

/-- The instruction the decoder reads from an instruction word whose first byte is bits 7 to 0, its second byte bits
15 to 8 and its third bits 23 to 16. Bits from `nbits` up are 0 (log entry 12). -/
def decodeTableWord (nbits w : Nat) : Option Instr :=
  let v := w % 2 ^ nbits
  match decode [.ofNat 8 v, .ofNat 8 (v / 256), .ofNat 8 (v / 65536)] with
  | .ok (i, _) => some i
  | .error _ => none

end Sys2Proof
end

