-- ==== Sys2Proof/Machine/Flags.lean ====
section
/-!
DEFINITION. The four flags and every computation of them: pure functions of their arguments, independent of any
register (00_scope.md R3, 42_alu8.md R333).
-/

namespace Sys2Proof.Machine

/-- The four flags (10_state.md R50): zero, subtract, half-carry, carry. -/
structure FlagSet where
  z : Bool
  n : Bool
  h : Bool
  c : Bool
deriving DecidableEq, Repr

/-- `F = Z * 0x80 + N * 0x40 + H * 0x20 + C * 0x10` (R50). -/
def packF (fs : FlagSet) : Byte :=
  .ofNat 8 (fs.z.toNat * 0x80 + fs.n.toNat * 0x40 + fs.h.toNat * 0x20 + fs.c.toNat * 0x10)

/-- The flags in F: bits 7, 6, 5, 4 (R50). -/
def unpackF (f : Byte) : FlagSet where
  z := f.getLsbD 7
  n := f.getLsbD 6
  h := f.getLsbD 5
  c := f.getLsbD 4

/-! ### 8-bit arithmetic (R330 to R332) -/

/-- `Add8(a, b, cin)` (R330). -/
def add8 (a b : Byte) (cin : Bool) : Byte × FlagSet :=
  let s := a.toNat + b.toNat + cin.toNat
  let res : Byte := .ofNat 8 s
  (res,
    { z := res == 0
      n := false
      h := decide (a.toNat % 16 + b.toNat % 16 + cin.toNat > 0x0F)
      c := decide (s > 0xFF) })

/-- `Sub8(a, b, cin)` (R331). -/
def sub8 (a b : Byte) (cin : Bool) : Byte × FlagSet :=
  let d : Int := (a.toNat : Int) - b.toNat - cin.toNat
  let res : Byte := .ofInt 8 d
  (res,
    { z := res == 0
      n := true
      h := decide (a.toNat % 16 < b.toNat % 16 + cin.toNat)
      c := decide (a.toNat < b.toNat + cin.toNat) })

/-- The result and flags of `AND` (R332). -/
def and8 (a b : Byte) : Byte × FlagSet :=
  (a &&& b, { z := a &&& b == 0, n := false, h := true, c := false })

/-- The result and flags of `XOR` (R332). -/
def xor8 (a b : Byte) : Byte × FlagSet :=
  (a ^^^ b, { z := a ^^^ b == 0, n := false, h := false, c := false })

/-- The result and flags of `OR` (R332). -/
def or8 (a b : Byte) : Byte × FlagSet :=
  (a ||| b, { z := a ||| b == 0, n := false, h := false, c := false })

/-- 8-bit INC: the carry is kept (R358). -/
def inc8 (v : Byte) (old : FlagSet) : Byte × FlagSet :=
  (v + 1, { z := v + 1 == 0, n := false, h := v &&& 0x0F == 0x0F, c := old.c })

/-- 8-bit DEC: the carry is kept (R360). -/
def dec8 (v : Byte) (old : FlagSet) : Byte × FlagSet :=
  (v - 1, { z := v - 1 == 0, n := true, h := v &&& 0x0F == 0x00, c := old.c })

/-- `DAA` (R362). Both tests of the addition branch read A from before the instruction. -/
def daa8 (a : Byte) (old : FlagSet) : Byte × FlagSet :=
  if old.n then
    let adj : Byte := (if old.h then 0x06 else 0x00) + (if old.c then 0x60 else 0x00)
    (a - adj, { z := a - adj == 0, n := true, h := false, c := old.c })
  else
    let low := old.h || decide (a.toNat % 16 > 0x09)
    let high := old.c || decide (a.toNat > 0x99)
    let adj : Byte := (if low then 0x06 else 0x00) + (if high then 0x60 else 0x00)
    (a + adj, { z := a + adj == 0, n := false, h := false, c := high })

/-! ### 16-bit arithmetic (R380, R383) -/

/-- `ADD HL,rr`: Z is kept, H is the carry out of bit 11, C the carry out of bit 15 (R380). -/
def addWord (a b : Word) (old : FlagSet) : Word × FlagSet :=
  let s := a.toNat + b.toNat
  (.ofNat 16 s,
    { z := old.z
      n := false
      h := decide (a.toNat % 0x1000 + b.toNat % 0x1000 > 0x0FFF)
      c := decide (s > 0xFFFF) })

/-- `sext_16(b)` (00_scope.md R13). -/
def sext16 (b : Byte) : Word :=
  if b.toNat < 0x80 then .ofNat 16 b.toNat else .ofNat 16 (b.toNat + 0xFF00)

/-- `AddSPe(e)` (R383): the sum takes `e` as signed, the carries out of bits 3 and 7 take it as unsigned. -/
def addSpe (sp : Word) (e : Byte) : Word × FlagSet :=
  (sp + sext16 e,
    { z := false
      n := false
      h := decide (sp.toNat % 16 + e.toNat % 16 > 0x0F)
      c := decide (sp.toNat % 256 + e.toNat > 0xFF) })

/-! ### The eight byte operations (R400): result and carry out, from the byte and the old carry -/

/-- A bit as the least significant bit of a byte. -/
def bitByte (b : Bool) : Byte := if b then 0x01 else 0x00

def rlc (v : Byte) (_ : Bool) : Byte × Bool := ((v <<< 1) ||| bitByte (v.getLsbD 7), v.getLsbD 7)

def rrc (v : Byte) (_ : Bool) : Byte × Bool := ((v >>> 1) ||| (bitByte (v.getLsbD 0) <<< 7), v.getLsbD 0)

def rl (v : Byte) (cin : Bool) : Byte × Bool := ((v <<< 1) ||| bitByte cin, v.getLsbD 7)

def rr (v : Byte) (cin : Bool) : Byte × Bool := ((v >>> 1) ||| (bitByte cin <<< 7), v.getLsbD 0)

def sla (v : Byte) (_ : Bool) : Byte × Bool := (v <<< 1, v.getLsbD 7)

def sra (v : Byte) (_ : Bool) : Byte × Bool := ((v >>> 1) ||| (v &&& 0x80), v.getLsbD 0)

def swap (v : Byte) (_ : Bool) : Byte × Bool := (((v &&& 0x0F) <<< 4) ||| (v >>> 4), false)

def srl (v : Byte) (_ : Bool) : Byte × Bool := (v >>> 1, v.getLsbD 0)

/-- The flags of a prefixed rotate or shift: Z from the result (R405 to R420). -/
def shiftFlags (r : Byte × Bool) : FlagSet := { z := r.1 == 0, n := false, h := false, c := r.2 }

/-- The flags of an accumulator rotate: Z always 0 (R401 to R404). -/
def rotateFlags (r : Byte × Bool) : FlagSet := { z := false, n := false, h := false, c := r.2 }

/-! ### Bits (R421 to R426) -/

/-- The flags of `BIT b`: Z is the complement of the bit, the carry is kept (R421). -/
def bitFlags (b : Fin 8) (v : Byte) (old : FlagSet) : FlagSet :=
  { z := !v.getLsbD b.val, n := false, h := true, c := old.c }

/-- The byte with bit `b` cleared: `v & (0xFF ^ (1 << b))` (R423). -/
def resBit (b : Fin 8) (v : Byte) : Byte := v &&& (0xFF ^^^ ((0x01 : Byte) <<< b.val))

/-- The byte with bit `b` set: `v | (1 << b)` (R425). -/
def setBit (b : Fin 8) (v : Byte) : Byte := v ||| ((0x01 : Byte) <<< b.val)

end Sys2Proof.Machine
end

