-- ==== Sys2Proof/Config.lean ====
section
/-!
DEFINITION. The parameters of the hardware (00_scope.md R9): the register file a load installs, the addresses of the
I/O registers, the gaps of the dispatch table and the cycle costs, with the defaults the spec gives them.
The machine carries one `Config` in its state and never changes it (log entry 1).
-/

namespace Sys2Proof

/-- The register file (10_state.md R41): eight 8-bit registers, the stack pointer and the program counter. -/
structure Regs where
  a : Byte
  b : Byte
  c : Byte
  d : Byte
  e : Byte
  h : Byte
  l : Byte
  f : Byte
  sp : Word
  pc : Word
deriving DecidableEq, Repr

/-- The names of the 44 registers of the I/O block (10_state.md R60, R62). The interrupt-enable byte stands outside
the block. `iflag` is the interrupt-flags register IF; `boot` the boot-disable flag; `snd k` sound byte `k`. -/
inductive IoReg where
  | joyp | sb | sc | div | tima | tma | tac | iflag
  | snd (k : Fin 23)
  | lcdc | stat | scy | scx | ly | lyc | dma | bgp | obp0 | obp1 | wy | wx | boot
deriving DecidableEq, Repr

/-- Every register of the block once, in the order of the table of R62. -/
def IoReg.all : List IoReg :=
  [.joyp, .sb, .sc, .div, .tima, .tma, .tac, .iflag] ++
  (List.range 23).map (fun k => .snd (Fin.ofNat 23 k)) ++
  [.lcdc, .stat, .scy, .scx, .ly, .lyc, .dma, .bgp, .obp0, .obp1, .wy, .wx, .boot]

/-- `COST` (70_reset_and_hazards.md R600): for a first byte its base cost and the extra cost of the taken form, for a
second byte after 0xCB the cost of the whole two-byte instruction. Three tables of 256 entries. -/
structure Cost where
  base : List Nat
  extra : List Nat
  cb : List Nat
deriving DecidableEq, Repr

/-- The parameters of one machine (00_scope.md R9). -/
structure Config where
  /-- The defined first bytes that are NOT in `IMPL_BASE` (30_encoding.md R212); the illegal bytes never are. -/
  gapsBase : List Byte
  /-- The second bytes that are NOT in `IMPL_CB` (30_encoding.md R212). -/
  gapsCb : List Byte
  /-- `IOMAP` (10_state.md R62): the address of each register of the block. -/
  ioMap : List (Word × IoReg)
  /-- `RESET_REGS` (10_state.md R80). -/
  resetRegs : Regs
  /-- `COST` (70_reset_and_hazards.md R600). -/
  cost : Cost
deriving DecidableEq, Repr

namespace Config

/-- The base costs of the table of R600, row by row. The eleven illegal bytes and 0xCB have no base cost: their
entries are 0 and never used (log entry 8). -/
def defaultBaseCost : List Nat :=
  [1, 3, 2, 2, 1, 1, 2, 1, 5, 2, 2, 2, 1, 1, 2, 1] ++
  [1, 3, 2, 2, 1, 1, 2, 1, 3, 2, 2, 2, 1, 1, 2, 1] ++
  [2, 3, 2, 2, 1, 1, 2, 1, 2, 2, 2, 2, 1, 1, 2, 1] ++
  [2, 3, 2, 2, 3, 3, 3, 1, 2, 2, 2, 2, 1, 1, 2, 1] ++
  [1, 1, 1, 1, 1, 1, 2, 1, 1, 1, 1, 1, 1, 1, 2, 1] ++
  [1, 1, 1, 1, 1, 1, 2, 1, 1, 1, 1, 1, 1, 1, 2, 1] ++
  [1, 1, 1, 1, 1, 1, 2, 1, 1, 1, 1, 1, 1, 1, 2, 1] ++
  [2, 2, 2, 2, 2, 2, 1, 2, 1, 1, 1, 1, 1, 1, 2, 1] ++
  [1, 1, 1, 1, 1, 1, 2, 1, 1, 1, 1, 1, 1, 1, 2, 1] ++
  [1, 1, 1, 1, 1, 1, 2, 1, 1, 1, 1, 1, 1, 1, 2, 1] ++
  [1, 1, 1, 1, 1, 1, 2, 1, 1, 1, 1, 1, 1, 1, 2, 1] ++
  [1, 1, 1, 1, 1, 1, 2, 1, 1, 1, 1, 1, 1, 1, 2, 1] ++
  [2, 3, 3, 4, 3, 4, 2, 4, 2, 4, 3, 0, 3, 6, 2, 4] ++
  [2, 3, 3, 0, 3, 4, 2, 4, 2, 4, 3, 0, 3, 0, 2, 4] ++
  [3, 3, 2, 0, 0, 4, 2, 4, 4, 1, 4, 0, 0, 0, 2, 4] ++
  [3, 3, 2, 1, 0, 4, 2, 4, 3, 2, 4, 1, 0, 0, 2, 4]

/-- The `+k` parts of the table of R600. -/
def defaultExtraCost : List Nat :=
  [0, 0, 0, 0, 0, 0, 0, 0, 0, 0, 0, 0, 0, 0, 0, 0] ++
  [0, 0, 0, 0, 0, 0, 0, 0, 0, 0, 0, 0, 0, 0, 0, 0] ++
  [1, 0, 0, 0, 0, 0, 0, 0, 1, 0, 0, 0, 0, 0, 0, 0] ++
  [1, 0, 0, 0, 0, 0, 0, 0, 1, 0, 0, 0, 0, 0, 0, 0] ++
  [0, 0, 0, 0, 0, 0, 0, 0, 0, 0, 0, 0, 0, 0, 0, 0] ++
  [0, 0, 0, 0, 0, 0, 0, 0, 0, 0, 0, 0, 0, 0, 0, 0] ++
  [0, 0, 0, 0, 0, 0, 0, 0, 0, 0, 0, 0, 0, 0, 0, 0] ++
  [0, 0, 0, 0, 0, 0, 0, 0, 0, 0, 0, 0, 0, 0, 0, 0] ++
  [0, 0, 0, 0, 0, 0, 0, 0, 0, 0, 0, 0, 0, 0, 0, 0] ++
  [0, 0, 0, 0, 0, 0, 0, 0, 0, 0, 0, 0, 0, 0, 0, 0] ++
  [0, 0, 0, 0, 0, 0, 0, 0, 0, 0, 0, 0, 0, 0, 0, 0] ++
  [0, 0, 0, 0, 0, 0, 0, 0, 0, 0, 0, 0, 0, 0, 0, 0] ++
  [3, 0, 1, 0, 3, 0, 0, 0, 3, 0, 1, 0, 3, 0, 0, 0] ++
  [3, 0, 1, 0, 3, 0, 0, 0, 3, 0, 1, 0, 3, 0, 0, 0] ++
  [0, 0, 0, 0, 0, 0, 0, 0, 0, 0, 0, 0, 0, 0, 0, 0] ++
  [0, 0, 0, 0, 0, 0, 0, 0, 0, 0, 0, 0, 0, 0, 0, 0]

/-- The prefixed costs of R600 for one row of eight second bytes (operands B, C, D, E, H, L, the byte at HL, A), whose
operand at HL costs `atHl`. -/
def cbRow (atHl : Nat) : List Nat := [2, 2, 2, 2, 2, 2, atHl, 2]

/-- `COST.cb` of R600: rotates, shifts and SWAP; BIT; RES; SET. -/
def defaultCbCost : List Nat :=
  (List.replicate 8 (cbRow 4)).flatten ++ (List.replicate 8 (cbRow 3)).flatten ++
  (List.replicate 8 (cbRow 4)).flatten ++ (List.replicate 8 (cbRow 4)).flatten

def defaultCost : Cost where
  base := defaultBaseCost
  extra := defaultExtraCost
  cb := defaultCbCost

/-- The default `IOMAP`, the table of 10_state.md R62 (PRESUMED, log entry 6). -/
def defaultIoMap : List (Word × IoReg) :=
  [(0xFF00, .joyp), (0xFF01, .sb), (0xFF02, .sc), (0xFF04, .div), (0xFF05, .tima), (0xFF06, .tma), (0xFF07, .tac),
   (0xFF0F, .iflag)] ++
  (List.range 23).map (fun k => (BitVec.ofNat 16 (0xFF10 + k), .snd (Fin.ofNat 23 k))) ++
  [(0xFF40, .lcdc), (0xFF41, .stat), (0xFF42, .scy), (0xFF43, .scx), (0xFF44, .ly), (0xFF45, .lyc), (0xFF46, .dma),
   (0xFF47, .bgp), (0xFF48, .obp0), (0xFF49, .obp1), (0xFF4A, .wy), (0xFF4B, .wx), (0xFF50, .boot)]

/-- The default `RESET_REGS`, the table of 10_state.md R80 (PRESUMED, log entry 3). -/
def defaultResetRegs : Regs where
  a := 0x01
  b := 0x00
  c := 0x13
  d := 0x00
  e := 0xD8
  h := 0x01
  l := 0x4D
  f := 0xB0
  sp := 0xFFFE
  pc := 0x0100

/-- The parameters with every default of the spec. -/
def default : Config where
  gapsBase := []
  gapsCb := []
  ioMap := defaultIoMap
  resetRegs := defaultResetRegs
  cost := defaultCost

/-- What the spec asks of a choice of parameters: `IOMAP` is an injective map of the 44 registers into the block's
range (92_eei_decisions.md D3), the low nibble of F is 0 (R80), a NOP costs 1 and no cost of a defined opcode is less
than 1 (R600). The entries of the illegal bytes and of 0xCB are not costs and are left free. -/
abbrev wf (cfg : Config) : Prop :=
  cfg.ioMap.map Prod.snd = IoReg.all ∧
  (cfg.ioMap.map Prod.fst).Nodup ∧
  (∀ p ∈ cfg.ioMap, 0xFF00 ≤ p.1.toNat ∧ p.1.toNat ≤ 0xFF7F) ∧
  cfg.resetRegs.f &&& 0x0F = 0 ∧
  cfg.cost.base.length = 256 ∧ cfg.cost.extra.length = 256 ∧ cfg.cost.cb.length = 256 ∧
  cfg.cost.base[0]? = some 1 ∧
  (∀ op ∈ List.range 256,
    op ∈ [0xCB, 0xD3, 0xDB, 0xDD, 0xE3, 0xE4, 0xEB, 0xEC, 0xED, 0xF4, 0xFC, 0xFD] ∨ 1 ≤ cfg.cost.base.getD op 0) ∧
  (∀ c ∈ cfg.cost.cb, 1 ≤ c)

end Config

end Sys2Proof
end

