-- ==== Sys2Proof/Machine/State.lean ====
section
/-!
DEFINITION. The Console State (10_state.md R40) as plain data, the one fault, the refusals, and the state at creation.
-/

namespace Sys2Proof.Machine

/-- The contents of one memory region: pairs of an index into the region and the byte there, indices strictly rising,
no byte equal to `Memory.unlisted`. -/
abbrev Memory := List Host.Cell

/-- What an index that is not listed holds. For the RAM regions this is the model's choice of the contents at reset,
which the spec leaves open (10_state.md R82, DESIGN CHOICE, log entry 4); for a cartridge it only shortens how its
given bytes are written down. -/
def Memory.unlisted : Byte := 0x00

/-- The 44 stored bytes of the I/O register block (10_state.md R60 to R62). -/
structure IoBlock where
  joyp : Byte
  sb : Byte
  sc : Byte
  div : Byte
  tima : Byte
  tma : Byte
  tac : Byte
  iflag : Byte
  snd : Vector Byte 23
  lcdc : Byte
  stat : Byte
  scy : Byte
  scx : Byte
  ly : Byte
  lyc : Byte
  dma : Byte
  bgp : Byte
  obp0 : Byte
  obp1 : Byte
  wy : Byte
  wx : Byte
  boot : Byte
deriving DecidableEq, Repr

/-- The stored values at creation (10_state.md R62, R81), installed directly and not through the write rules (R61). -/
def IoBlock.reset : IoBlock where
  joyp := 0xCF
  sb := 0x00
  sc := 0x7E
  div := 0xAB
  tima := 0x00
  tma := 0x00
  tac := 0xF8
  iflag := 0xE1
  snd := Vector.replicate 23 0x00
  lcdc := 0x91
  stat := 0x85
  scy := 0x00
  scx := 0x00
  ly := 0x00
  lyc := 0x00
  dma := 0x00
  bgp := 0xFC
  obp0 := 0x00
  obp1 := 0x00
  wy := 0x00
  wx := 0x00
  boot := 0x00

/-- What the cartridge collaborator supplies (10_state.md R56): a read-only byte sequence with its length, and the
length of the cartridge's RAM. A listed index at or beyond a length is not part of the sequence. -/
structure Cartridge where
  rom : Memory
  romLen : Nat
  cramLen : Nat
deriving DecidableEq, Repr

/-- No cartridge: `ROM_LEN = 0` and `CRAM_LEN = 0` (70_reset_and_hazards.md R570). -/
def Cartridge.none : Cartridge where
  rom := []
  romLen := 0
  cramLen := 0

/-- The initial contents of the four RAM regions the core owns: `INIT_MEM` (10_state.md R82). -/
structure InitMem where
  vram : Memory
  wram : Memory
  oam : Memory
  hram : Memory
deriving DecidableEq, Repr

/-- The Console State (10_state.md R40): the register file, the memory regions, the I/O register block and the
interrupt-enable byte, and the bookkeeping state; with it the cartridge and the parameters, which no step changes. -/
structure State where
  /-- The parameters of this machine (00_scope.md R9, log entry 1). -/
  cfg : Config
  /-- The register file (R41 to R53). -/
  regs : Regs
  /-- The interrupt master enable (R73). -/
  ime : Bool
  /-- Video RAM, 8192 bytes (R55). -/
  vram : Memory
  /-- Work RAM, 8192 bytes (R55). -/
  wram : Memory
  /-- Object Attribute Memory, 160 bytes (R55). -/
  oam : Memory
  /-- High RAM, 127 bytes (R55). -/
  hram : Memory
  /-- Cartridge RAM, `cart.cramLen` bytes (R56). -/
  cram : Memory
  /-- The cartridge's ROM and its lengths (R56). -/
  cart : Cartridge
  /-- The stored values of the I/O register block (R60, R61). -/
  io : IoBlock
  /-- The interrupt-enable byte (R64). -/
  ie : Byte
  /-- The flag that gates stepping (R70). -/
  running : Bool
  /-- The cumulative cycle counter (R71). -/
  cycles : Nat
  /-- The bytes emitted so far, oldest first (R72). -/
  serialOut : List Byte
deriving DecidableEq, Repr

/-- Creation (70_reset_and_hazards.md R570) with parameters `cfg` and RAM contents `init`: no cartridge, not running,
nothing counted and nothing emitted (10_state.md R83). -/
def State.created (cfg : Config) (init : InitMem) : State where
  cfg := cfg
  regs := cfg.resetRegs
  ime := false
  vram := init.vram
  wram := init.wram
  oam := init.oam
  hram := init.hram
  cram := []
  cart := Cartridge.none
  io := IoBlock.reset
  ie := 0x00
  running := false
  cycles := 0
  serialOut := []

/-- The state right after reset: creation with the spec's default parameters. Nothing is listed in memory (log entry
4) and no cartridge is present: a step does nothing until one is loaded (log entry 2). -/
def State.reset : State := State.created Config.default ⟨[], [], [], []⟩

/-- Why the machine stops with a fault. -/
inductive Fault where
  /-- `UnimplementedOpcode(table, op, addr)` (60_exceptions.md R520), the only fault of the core: the step fetched a
  byte for which the dispatch table has no routine. Raised by the fetch of a step for a gap of `IMPL_BASE` or
  `IMPL_CB`, by the meaning of the illegal bytes (46_misc_control.md R496) and by that of the prefix alone (R495).
  `table` is the table the byte is missing from, `op` the byte, `addr` the address of the first byte of the
  instruction, and `after` the Console State the fault leaves behind. Safe: the step reports the fault in place of a
  cycle count, as the spec says, and nothing of the state after it is lost (log entry 9). -/
  | unimplementedOpcode (table : OpTable) (op : Byte) (addr : Word) (after : State)
deriving DecidableEq, Repr

/-- Why an instruction has no meaning. -/
inductive Refusal where
  /-- The instruction of this mnemonic is not modelled yet. Raised by an arm of `exec` only, and by none in this
  model. Safe: nothing is claimed of such an instruction. -/
  | notModelled (mnemonic : String)
deriving DecidableEq, Repr

/-- What an instruction or a step answers. -/
abbrev Result := Host.Outcome State Fault Refusal

end Sys2Proof.Machine
end

