-- ==== Sys2Proof/Machine/Ops.lean ====
section
/-!
DEFINITION. The named operations every instruction uses: the register file, a memory region, the I/O block, the two bus
functions, fetch, push and pop, the cost of an instruction, and raising the one fault.
-/

namespace Sys2Proof

/-! ### The register file (10_state.md R41 to R46) -/

/-- Read an 8-bit register. -/
def Regs.get8 (g : Regs) : Reg8 → Byte
  | .b => g.b
  | .c => g.c
  | .d => g.d
  | .e => g.e
  | .h => g.h
  | .l => g.l
  | .a => g.a

/-- Write an 8-bit register. -/
def Regs.set8 (g : Regs) (r : Reg8) (v : Byte) : Regs :=
  match r with
  | .b => { g with b := v }
  | .c => { g with c := v }
  | .d => { g with d := v }
  | .e => { g with e := v }
  | .h => { g with h := v }
  | .l => { g with l := v }
  | .a => { g with a := v }

/-- Read a pair or SP: a pair is composed with its first register in bits 15 to 8 (R45). -/
def Regs.get16 (g : Regs) : Reg16 → Word
  | .bc => joinBytes g.b g.c
  | .de => joinBytes g.d g.e
  | .hl => joinBytes g.h g.l
  | .sp => g.sp

/-- Write a pair or SP: a pair is decomposed into its two registers (R45). -/
def Regs.set16 (g : Regs) (p : Reg16) (w : Word) : Regs :=
  match p with
  | .bc => { g with b := hi8 w, c := lo8 w }
  | .de => { g with d := hi8 w, e := lo8 w }
  | .hl => { g with h := hi8 w, l := lo8 w }
  | .sp => { g with sp := w }

/-- The pair a `PUSH rr` or `POP rr` names. -/
def StackPair.pair : StackPair → Reg16
  | .bc => .bc
  | .de => .de
  | .hl => .hl

/-- The register at an address of the block, if any: `IOMAP` (20_memory.md R125). -/
def Config.ioAt (cfg : Config) (a : Word) : Option IoReg := cfg.ioMap.lookup a

/-- The base cost of an instruction: `COST.base` of its first byte, or `COST.cb` of the byte after the prefix
(30_encoding.md R203). -/
def Config.baseCost (cfg : Config) (i : Instr) : Nat :=
  match i.table with
  | .base => cfg.cost.base.getD i.matchedByte.toNat 0
  | .cb => cfg.cost.cb.getD i.matchedByte.toNat 0

/-- The extra cost of the taken form of a conditional instruction (R203). -/
def Config.extraCost (cfg : Config) (i : Instr) : Nat := cfg.cost.extra.getD i.matchedByte.toNat 0

end Sys2Proof

namespace Sys2Proof.Machine

/-! ### One memory region -/

/-- Read the byte at an index. -/
def Memory.read : Memory → Nat → Byte
  | [], _ => Memory.unlisted
  | c :: rest, i => if c.1 = i then c.2 else Memory.read rest i

/-- Put a pair before the first pair of a greater index. -/
def Memory.place (i : Nat) (v : Byte) : Memory → Memory
  | [] => [(i, v)]
  | c :: rest => if i < c.1 then (i, v) :: c :: rest else c :: Memory.place i v rest

/-- Write the byte at an index: the old pair of the index goes, and the new one is put in order unless it is what an
unlisted index holds. -/
def Memory.write (m : Memory) (i : Nat) (v : Byte) : Memory :=
  let rest := m.filter (fun c => c.1 ≠ i)
  if v = Memory.unlisted then rest else Memory.place i v rest

/-- The canonical form: indices strictly rising, and no byte listed that an unlisted index holds. -/
abbrev Memory.wf (m : Memory) : Prop :=
  m.Pairwise (fun x y => x.1 < y.1) ∧ ∀ c ∈ m, c.2 ≠ Memory.unlisted

/-- Every listed index is below the size of the region. -/
abbrev Memory.below (m : Memory) (size : Nat) : Prop := ∀ c ∈ m, c.1 < size

/-! ### The I/O register block (10_state.md R60, R61) -/

/-- The stored value of a register. -/
def IoBlock.get (io : IoBlock) : IoReg → Byte
  | .joyp => io.joyp
  | .sb => io.sb
  | .sc => io.sc
  | .div => io.div
  | .tima => io.tima
  | .tma => io.tma
  | .tac => io.tac
  | .iflag => io.iflag
  | .snd k => io.snd[k]
  | .lcdc => io.lcdc
  | .stat => io.stat
  | .scy => io.scy
  | .scx => io.scx
  | .ly => io.ly
  | .lyc => io.lyc
  | .dma => io.dma
  | .bgp => io.bgp
  | .obp0 => io.obp0
  | .obp1 => io.obp1
  | .wy => io.wy
  | .wx => io.wx
  | .boot => io.boot

/-- Install a stored value. -/
def IoBlock.set (io : IoBlock) (r : IoReg) (v : Byte) : IoBlock :=
  match r with
  | .joyp => { io with joyp := v }
  | .sb => { io with sb := v }
  | .sc => { io with sc := v }
  | .div => { io with div := v }
  | .tima => { io with tima := v }
  | .tma => { io with tma := v }
  | .tac => { io with tac := v }
  | .iflag => { io with iflag := v }
  | .snd k => { io with snd := io.snd.set k v }
  | .lcdc => { io with lcdc := v }
  | .stat => { io with stat := v }
  | .scy => { io with scy := v }
  | .scx => { io with scx := v }
  | .ly => { io with ly := v }
  | .lyc => { io with lyc := v }
  | .dma => { io with dma := v }
  | .bgp => { io with bgp := v }
  | .obp0 => { io with obp0 := v }
  | .obp1 => { io with obp1 := v }
  | .wy => { io with wy := v }
  | .wx => { io with wx := v }
  | .boot => { io with boot := v }

/-- The observed value of a register: the byte a bus read of it returns (20_memory.md R126 to R128). -/
def IoBlock.observed (io : IoBlock) (r : IoReg) : Byte :=
  match r with
  | .iflag => io.iflag ||| 0xE0
  | .stat => io.stat ||| 0x80
  | r => io.get r

/-! ### Updates of the Console State -/

namespace State

def get8 (s : State) (r : Reg8) : Byte := s.regs.get8 r

def set8 (s : State) (r : Reg8) (v : Byte) : State := { s with regs := s.regs.set8 r v }

def get16 (s : State) (p : Reg16) : Word := s.regs.get16 p

def set16 (s : State) (p : Reg16) (w : Word) : State := { s with regs := s.regs.set16 p w }

/-- Write F: every write stores `v & 0xF0` (10_state.md R43). -/
def setF (s : State) (v : Byte) : State := { s with regs := { s.regs with f := v &&& 0xF0 } }

/-- The flags (R50). -/
def flags (s : State) : FlagSet := unpackF s.regs.f

/-- Write all four flags (R52). -/
def setFlags (s : State) (fs : FlagSet) : State := s.setF (packF fs)

def setPc (s : State) (w : Word) : State := { s with regs := { s.regs with pc := w } }

def setIme (s : State) (b : Bool) : State := { s with ime := b }

def setRunning (s : State) (b : Bool) : State := { s with running := b }

def addCycles (s : State) (n : Nat) : State := { s with cycles := s.cycles + n }

def setVram (s : State) (m : Memory) : State := { s with vram := m }

def setWram (s : State) (m : Memory) : State := { s with wram := m }

def setOam (s : State) (m : Memory) : State := { s with oam := m }

def setHram (s : State) (m : Memory) : State := { s with hram := m }

def setCram (s : State) (m : Memory) : State := { s with cram := m }

/-- Install the stored value of one register of the I/O block. -/
def setIo (s : State) (r : IoReg) (v : Byte) : State := { s with io := s.io.set r v }

def setIe (s : State) (v : Byte) : State := { s with ie := v }

/-- Append a byte to the output sink (10_state.md R72). -/
def emit (s : State) (v : Byte) : State := { s with serialOut := s.serialOut ++ [v] }

end State

/-! ### The address space (20_memory.md R102) -/

/-- The eleven ranges of the partition, in the order of its rows. -/
inductive Region where
  | romFixed | romSwitch | vram | cram | wram | echo | oam | unusable | io | hram | ie
deriving DecidableEq, Repr

/-- The range of an address (R102, both bounds inclusive: C1). -/
def region (a : Word) : Region :=
  if a.toNat ≤ 0x3FFF then .romFixed
  else if a.toNat ≤ 0x7FFF then .romSwitch
  else if a.toNat ≤ 0x9FFF then .vram
  else if a.toNat ≤ 0xBFFF then .cram
  else if a.toNat ≤ 0xDFFF then .wram
  else if a.toNat ≤ 0xFDFF then .echo
  else if a.toNat ≤ 0xFE9F then .oam
  else if a.toNat ≤ 0xFEFF then .unusable
  else if a.toNat ≤ 0xFF7F then .io
  else if a.toNat ≤ 0xFFFE then .hram
  else .ie

/-- The open-bus value (00_scope.md R9, C7). -/
def openBus : Byte := 0xFF

/-- A bus read of the I/O block: the observed value, or 0xFF where no register is (R125 to R129). -/
def ioRead (s : State) (a : Word) : Byte :=
  match s.cfg.ioAt a with
  | some r => s.io.observed r
  | none => openBus

/-- `MemRead(addr, 1)` (R100, R102): total, and without any side effect (R117). -/
def busRead (s : State) (a : Word) : Byte :=
  match region a with
  | .romFixed => if a.toNat < s.cart.romLen then s.cart.rom.read a.toNat else openBus
  | .romSwitch => if a.toNat < s.cart.romLen then s.cart.rom.read a.toNat else openBus
  | .vram => s.vram.read (a.toNat - 0x8000)
  | .cram => if a.toNat - 0xA000 < s.cart.cramLen then s.cram.read (a.toNat - 0xA000) else openBus
  | .wram => s.wram.read (a.toNat - 0xC000)
  | .echo => s.wram.read (a.toNat - 0xE000)
  | .oam => s.oam.read (a.toNat - 0xFE00)
  | .unusable => 0x00
  | .io => ioRead s a
  | .hram => s.hram.read (a.toNat - 0xFF80)
  | .ie => s.ie

/-- The first `n` transfers of the OAM DMA from `base`, in ascending order: each byte is read through the bus and then
written, before the next is read (R142, D18). -/
def dmaCopy (base : Word) : Nat → State → State
  | 0, s => s
  | n + 1, s =>
    let s' := dmaCopy base n s
    s'.setOam (s'.oam.write n (busRead s' (base + .ofNat 16 n)))

/-- The write rule of each register of the block (R130 to R143). -/
def ioWriteReg (s : State) (r : IoReg) (v : Byte) : State :=
  match r with
  | .joyp => s.setIo .joyp ((s.io.joyp &&& 0xCF) ||| (v &&& 0x30))
  | .sb => s.setIo .sb v
  | .sc =>
    if v.getLsbD 7 then
      (((s.setIo .sc v).emit s.io.sb).setIo .sc (v &&& 0x7F)).setIo .iflag (s.io.iflag ||| 0x08)
    else s.setIo .sc v
  | .div => s.setIo .div 0x00
  | .tima => s.setIo .tima v
  | .tma => s.setIo .tma v
  | .tac => s.setIo .tac (v &&& 0x07)
  | .iflag => s.setIo .iflag (v &&& 0x1F)
  | .snd k => s.setIo (.snd k) v
  | .lcdc => s.setIo .lcdc v
  | .stat => s.setIo .stat ((s.io.stat &&& 0x87) ||| (v &&& 0x78))
  | .scy => s.setIo .scy v
  | .scx => s.setIo .scx v
  | .ly => s
  | .lyc => s.setIo .lyc v
  | .dma => dmaCopy (joinBytes v 0x00) 160 (s.setIo .dma v)
  | .bgp => s.setIo .bgp v
  | .obp0 => s.setIo .obp0 v
  | .obp1 => s.setIo .obp1 v
  | .wy => s.setIo .wy v
  | .wx => s.setIo .wx v
  | .boot => s.setIo .boot v

/-- A bus write to the I/O block; where no register is, it changes nothing (R129). -/
def ioWrite (s : State) (a : Word) (v : Byte) : State :=
  match s.cfg.ioAt a with
  | some r => ioWriteReg s r v
  | none => s

/-- `MemWrite(addr, 1, v)` (R101, R102): total; where the policy is "ignored" nothing changes. -/
def busWrite (s : State) (a : Word) (v : Byte) : State :=
  match region a with
  | .romFixed => s
  | .romSwitch => s
  | .vram => s.setVram (s.vram.write (a.toNat - 0x8000) v)
  | .cram => if a.toNat - 0xA000 < s.cart.cramLen then s.setCram (s.cram.write (a.toNat - 0xA000) v) else s
  | .wram => s.setWram (s.wram.write (a.toNat - 0xC000) v)
  | .echo => s.setWram (s.wram.write (a.toNat - 0xE000) v)
  | .oam => s.setOam (s.oam.write (a.toNat - 0xFE00) v)
  | .unusable => s
  | .io => ioWrite s a v
  | .hram => s.setHram (s.hram.write (a.toNat - 0xFF80) v)
  | .ie => s.setIe v

/-- `MemWrite(addr, 2, w)`: the low byte first, to the lower address (00_scope.md R16, 20_memory.md R111). -/
def busWrite16 (s : State) (a : Word) (w : Word) : State :=
  busWrite (busWrite s a (lo8 w)) (a + 1) (hi8 w)

/-! ### The stack (41_load16_stack.md R305, R306) -/

/-- `Push16(w)`: the high byte first, at SP - 1, then the low byte at SP - 2. -/
def push16 (s : State) (w : Word) : State :=
  let s1 := s.set16 .sp (s.regs.sp - 1)
  let s2 := busWrite s1 s1.regs.sp (hi8 w)
  let s3 := s2.set16 .sp (s2.regs.sp - 1)
  busWrite s3 s3.regs.sp (lo8 w)

/-- `Pop16()`: the low byte from SP, then the high byte from SP + 1. -/
def pop16 (s : State) : Word × State :=
  let lo := busRead s s.regs.sp
  let s1 := s.set16 .sp (s.regs.sp + 1)
  let hi := busRead s1 s1.regs.sp
  (joinBytes hi lo, s1.set16 .sp (s1.regs.sp + 1))

/-! ### The end of an instruction (30_encoding.md R200, R203) -/

/-- The routine of `i` is complete and reports no extra cycles: its base cost is added to `cycles`. -/
def done (i : Instr) (s : State) : Result := .next (s.addCycles (s.cfg.baseCost i))

/-- The routine of `i` is complete and reports the extra cycles of its taken form. -/
def doneTaken (i : Instr) (s : State) : Result := .next (s.addCycles (s.cfg.baseCost i + s.cfg.extraCost i))

/-! ### The fault (60_exceptions.md R520)

The core has no other exception, no trap entry and no return from one (R521, R529, R530): RETI is an ordinary return,
and its meaning is in Machine/Control.lean. -/

/-- `raise UnimplementedOpcode(table, op, addr)` in the state `s`, whose pc is past the bytes consumed so far: the
console stops running, no cost is added, and nothing else changes. -/
def raiseUnimplemented (table : OpTable) (op : Byte) (addr : Word) (s : State) : Result :=
  .fault (.unimplementedOpcode table op addr (s.setRunning false))

/-! ### Fetch (30_encoding.md R200, R201, R210; 00_scope.md R17) -/

/-- `Fetch8()`. -/
def fetch8 (s : State) : Byte × State := (busRead s s.regs.pc, s.setPc (s.regs.pc + 1))

/-- What the fetch of a step finds: an instruction, with the state after its bytes are consumed, or a byte without a
routine, with the address of the instruction's first byte and the state after the bytes consumed so far. -/
inductive Fetched where
  | instr (i : Instr) (s : State)
  | missing (table : OpTable) (op : Byte) (addr : Word) (s : State)
deriving DecidableEq, Repr

/-- Fetch the opcode byte and the operand bytes at pc and look the opcode up (R200, R210). Reading has no side effect
(R117), so all three bytes are read and pc passes only those the instruction is long (log entry 11). A gap of
`IMPL_BASE` is found after the first byte and, as that check comes first (R528), a gap of `IMPL_CB` after the second. -/
def fetchInstr (s : State) : Fetched :=
  let (op, s1) := fetch8 s
  let (b1, s2) := fetch8 s1
  let (b2, s3) := fetch8 s2
  if op ∈ s.cfg.gapsBase then .missing .base op s.regs.pc s1
  else if op = 0xCB ∧ b1 ∈ s.cfg.gapsCb then .missing .cb b1 s.regs.pc s2
  else
    .instr (decodeOne op b1 b2)
      (match instrLength op with
        | 1 => s1
        | 2 => s2
        | _ => s3)

/-! ### Placing bytes from outside (for `withFetchWord` and for tests) -/

/-- Make the cell behind an address hold a byte, from outside the machine and not through the bus write rules: a
cartridge byte is placed in ROM or cartridge RAM with the declared length raised over it, a register of the I/O block
gets the byte as its stored value. Where no cell is behind the address nothing changes (log entry 2). -/
def placeByte (s : State) (a : Word) (v : Byte) : State :=
  match region a with
  | .romFixed | .romSwitch =>
    { s with cart := { s.cart with rom := s.cart.rom.write a.toNat v, romLen := max s.cart.romLen (a.toNat + 1) } }
  | .vram => s.setVram (s.vram.write (a.toNat - 0x8000) v)
  | .cram =>
    { s with
      cram := s.cram.write (a.toNat - 0xA000) v
      cart := { s.cart with cramLen := max s.cart.cramLen (a.toNat - 0xA000 + 1) } }
  | .wram => s.setWram (s.wram.write (a.toNat - 0xC000) v)
  | .echo => s.setWram (s.wram.write (a.toNat - 0xE000) v)
  | .oam => s.setOam (s.oam.write (a.toNat - 0xFE00) v)
  | .unusable => s
  | .io =>
    match s.cfg.ioAt a with
    | some r => s.setIo r v
    | none => s
  | .hram => s.setHram (s.hram.write (a.toNat - 0xFF80) v)
  | .ie => s.setIe v

/-- Place bytes at consecutive addresses. -/
def placeBytes (s : State) (a : Word) : List Byte → State
  | [] => s
  | v :: rest => placeBytes (placeByte s a v) (a + 1) rest

end Sys2Proof.Machine
end

