-- ==== Sys2Proof/Machine/Operands.lean ====
section
/-!
DEFINITION. The operand forms (30_encoding.md R206, R207) and the conditions (45_control_flow.md R450), and the shapes
of instruction that several meanings share.
-/

namespace Sys2Proof.Machine

/-! ### Operands -/

/-- The address in HL. -/
def State.hl (s : State) : Word := s.get16 .hl

/-- The byte at HL: `MemRead(HL, 1)`. -/
def readHl (s : State) : Byte := busRead s s.hl

/-- `MemWrite(HL, 1, v)`. -/
def writeHl (s : State) (v : Byte) : State := busWrite s s.hl v

/-- The address `0xFF00 + n` of the high-page forms (40_load8.md R261 to R264). -/
def highAddr (n : Byte) : Word := 0xFF00 + n.setWidth 16

/-- `cond(cc)` (45_control_flow.md R450). -/
def condTrue (cc : Cond) (s : State) : Bool :=
  match cc with
  | .nz => !s.flags.z
  | .z => s.flags.z
  | .nc => !s.flags.c
  | .c => s.flags.c

/-! ### Shared shapes -/

/-- Load a byte into a register. -/
def load8 (i : Instr) (r : Reg8) (v : Byte) (s : State) : Result := done i (s.set8 r v)

/-- Store a byte at an address. -/
def store8 (i : Instr) (a : Word) (v : Byte) (s : State) : Result := done i (busWrite s a v)

/-- An 8-bit operation whose result goes to A (42_alu8.md). -/
def alu (i : Instr) (r : Byte × FlagSet) (s : State) : Result := done i ((s.set8 .a r.1).setFlags r.2)

/-- A comparison: the flags only, A is kept (R355). -/
def compare (i : Instr) (r : Byte × FlagSet) (s : State) : Result := done i (s.setFlags r.2)

/-- An operation on a register that writes it and the flags. -/
def modify8 (i : Instr) (z : Reg8) (r : Byte × FlagSet) (s : State) : Result := done i ((s.set8 z r.1).setFlags r.2)

/-- An operation on the byte at HL that writes it through the bus and then the flags; the flags come from the computed
byte and not from what the write stores (42_alu8.md R359). -/
def modifyHl (i : Instr) (r : Byte × FlagSet) (s : State) : Result := done i ((writeHl s r.1).setFlags r.2)

/-- The result and the flags of a prefixed rotate or shift `f` of `v` with the old carry (44_rotate_shift_bit.md
section 3). -/
def shiftResult (f : Byte → Bool → Byte × Bool) (v : Byte) (s : State) : Byte × FlagSet :=
  let r := f v s.flags.c
  (r.1, shiftFlags r)

/-- The result and the flags of an accumulator rotate `f` (R401 to R404). -/
def rotateResult (f : Byte → Bool → Byte × Bool) (s : State) : Byte × FlagSet :=
  let r := f (s.get8 .a) s.flags.c
  (r.1, rotateFlags r)

end Sys2Proof.Machine
end

