-- ==== Sys2Proof/Machine/Alu16.lean ====
section
/-!
DEFINITION. The 16-bit arithmetic instructions (43_alu16.md R380 to R385). None faults or touches memory.
-/

namespace Sys2Proof.Machine

/-- `ADD HL,rr` (R380): Z is kept. -/
def execAddHlRr (p : Reg16) (s : State) : Result :=
  let r := addWord s.hl (s.get16 p) s.flags
  done (.addHlRr p) ((s.set16 .hl r.1).setFlags r.2)

/-- `INC rr` (R381): no flag. -/
def execIncRr (p : Reg16) (s : State) : Result :=
  done (.incRr p) (s.set16 p (s.get16 p + 1))

/-- `DEC rr` (R382): no flag. -/
def execDecRr (p : Reg16) (s : State) : Result :=
  done (.decRr p) (s.set16 p (s.get16 p - 1))

/-- `ADD SP,e` (R384). -/
def execAddSpE (e : Byte) (s : State) : Result :=
  let r := addSpe s.regs.sp e
  done (.addSpE e) ((s.set16 .sp r.1).setFlags r.2)

/-- `LD HL,SP+e` (R385): SP is not written. -/
def execLdHlSpE (e : Byte) (s : State) : Result :=
  let r := addSpe s.regs.sp e
  done (.ldHlSpE e) ((s.set16 .hl r.1).setFlags r.2)


end Sys2Proof.Machine
end

