-- ==== Sys2Proof/Machine/Alu8.lean ====
section
/-!
DEFINITION. The 8-bit arithmetic and logic instructions (42_alu8.md R334 to R365). None faults.
-/

namespace Sys2Proof.Machine

/-- `ADD A,r` (R334). -/
def execAddAR (src : Reg8) (s : State) : Result :=
  alu (.addAR src) (add8 (s.get8 .a) (s.get8 src) false) s

/-- `ADD A,(HL)` (R335). -/
def execAddAHl (s : State) : Result :=
  alu .addAHl (add8 (s.get8 .a) (readHl s) false) s

/-- `ADD A,n` (R336). -/
def execAddAN (n : Byte) (s : State) : Result :=
  alu (.addAN n) (add8 (s.get8 .a) n false) s

/-- `ADC A,r` (R337). -/
def execAdcAR (src : Reg8) (s : State) : Result :=
  alu (.adcAR src) (add8 (s.get8 .a) (s.get8 src) s.flags.c) s

/-- `ADC A,(HL)` (R338). -/
def execAdcAHl (s : State) : Result :=
  alu .adcAHl (add8 (s.get8 .a) (readHl s) s.flags.c) s

/-- `ADC A,n` (R339). -/
def execAdcAN (n : Byte) (s : State) : Result :=
  alu (.adcAN n) (add8 (s.get8 .a) n s.flags.c) s

/-- `SUB r` (R340). -/
def execSubR (src : Reg8) (s : State) : Result :=
  alu (.subR src) (sub8 (s.get8 .a) (s.get8 src) false) s

/-- `SUB (HL)` (R341). -/
def execSubHl (s : State) : Result :=
  alu .subHl (sub8 (s.get8 .a) (readHl s) false) s

/-- `SUB n` (R342). -/
def execSubN (n : Byte) (s : State) : Result :=
  alu (.subN n) (sub8 (s.get8 .a) n false) s

/-- `SBC A,r` (R343). -/
def execSbcAR (src : Reg8) (s : State) : Result :=
  alu (.sbcAR src) (sub8 (s.get8 .a) (s.get8 src) s.flags.c) s

/-- `SBC A,(HL)` (R344). -/
def execSbcAHl (s : State) : Result :=
  alu .sbcAHl (sub8 (s.get8 .a) (readHl s) s.flags.c) s

/-- `SBC A,n` (R345). -/
def execSbcAN (n : Byte) (s : State) : Result :=
  alu (.sbcAN n) (sub8 (s.get8 .a) n s.flags.c) s

/-- `AND r` (R346). -/
def execAndR (src : Reg8) (s : State) : Result :=
  alu (.andR src) (and8 (s.get8 .a) (s.get8 src)) s

/-- `AND (HL)` (R347). -/
def execAndHl (s : State) : Result :=
  alu .andHl (and8 (s.get8 .a) (readHl s)) s

/-- `AND n` (R348). -/
def execAndN (n : Byte) (s : State) : Result :=
  alu (.andN n) (and8 (s.get8 .a) n) s

/-- `XOR r` (R349). -/
def execXorR (src : Reg8) (s : State) : Result :=
  alu (.xorR src) (xor8 (s.get8 .a) (s.get8 src)) s

/-- `XOR (HL)` (R350). -/
def execXorHl (s : State) : Result :=
  alu .xorHl (xor8 (s.get8 .a) (readHl s)) s

/-- `XOR n` (R351). -/
def execXorN (n : Byte) (s : State) : Result :=
  alu (.xorN n) (xor8 (s.get8 .a) n) s

/-- `OR r` (R352). -/
def execOrR (src : Reg8) (s : State) : Result :=
  alu (.orR src) (or8 (s.get8 .a) (s.get8 src)) s

/-- `OR (HL)` (R353). -/
def execOrHl (s : State) : Result :=
  alu .orHl (or8 (s.get8 .a) (readHl s)) s

/-- `OR n` (R354). -/
def execOrN (n : Byte) (s : State) : Result :=
  alu (.orN n) (or8 (s.get8 .a) n) s

/-- `CP r` (R355). -/
def execCpR (src : Reg8) (s : State) : Result :=
  compare (.cpR src) (sub8 (s.get8 .a) (s.get8 src) false) s

/-- `CP (HL)` (R356). -/
def execCpHl (s : State) : Result :=
  compare .cpHl (sub8 (s.get8 .a) (readHl s) false) s

/-- `CP n` (R357). -/
def execCpN (n : Byte) (s : State) : Result :=
  compare (.cpN n) (sub8 (s.get8 .a) n false) s

/-- `INC r` (R358). -/
def execIncR (dst : Reg8) (s : State) : Result :=
  modify8 (.incR dst) dst (inc8 (s.get8 dst) s.flags) s

/-- `INC (HL)` (R359). -/
def execIncHl (s : State) : Result :=
  modifyHl .incHl (inc8 (readHl s) s.flags) s

/-- `DEC r` (R360). -/
def execDecR (dst : Reg8) (s : State) : Result :=
  modify8 (.decR dst) dst (dec8 (s.get8 dst) s.flags) s

/-- `DEC (HL)` (R361). -/
def execDecHl (s : State) : Result :=
  modifyHl .decHl (dec8 (readHl s) s.flags) s

/-- `DAA` (R362). -/
def execDaa (s : State) : Result :=
  alu .daa (daa8 (s.get8 .a) s.flags) s

/-- `CPL` (R363): Z is not recomputed. -/
def execCpl (s : State) : Result :=
  done .cpl ((s.set8 .a (s.get8 .a ^^^ 0xFF)).setFlags { s.flags with n := true, h := true })

/-- `SCF` (R364). -/
def execScf (s : State) : Result :=
  done .scf (s.setFlags { s.flags with n := false, h := false, c := true })

/-- `CCF` (R365). -/
def execCcf (s : State) : Result :=
  done .ccf (s.setFlags { s.flags with n := false, h := false, c := !s.flags.c })


end Sys2Proof.Machine
end

