-- ==== Sys2Proof/Machine/Control.lean ====
section
/-!
DEFINITION. The control transfers (45_control_flow.md R451 to R462). When a meaning runs, pc is the address after the
instruction (30_encoding.md R202, R206). No flag is written and none faults.
-/

namespace Sys2Proof.Machine

/-- `JP nn` (R451). -/
def execJpNn (nn : Word) (s : State) : Result :=
  done (.jpNn nn) (s.setPc nn)

/-- `JP cc,nn` (R452). -/
def execJpCcNn (cc : Cond) (nn : Word) (s : State) : Result :=
  if condTrue cc s then doneTaken (.jpCcNn cc nn) (s.setPc nn) else done (.jpCcNn cc nn) s

/-- `JP HL` (R453): the target is HL itself. -/
def execJpHl (s : State) : Result :=
  done .jpHl (s.setPc s.hl)

/-- `JR e` (R454): from the address after the operand byte. -/
def execJrE (e : Byte) (s : State) : Result :=
  done (.jrE e) (s.setPc (s.regs.pc + sext16 e))

/-- `JR cc,e` (R455). -/
def execJrCcE (cc : Cond) (e : Byte) (s : State) : Result :=
  if condTrue cc s then doneTaken (.jrCcE cc e) (s.setPc (s.regs.pc + sext16 e)) else done (.jrCcE cc e) s

/-- `CALL nn` (R456): the address after the instruction is pushed. -/
def execCallNn (nn : Word) (s : State) : Result :=
  done (.callNn nn) ((push16 s s.regs.pc).setPc nn)

/-- `CALL cc,nn` (R457). -/
def execCallCcNn (cc : Cond) (nn : Word) (s : State) : Result :=
  if condTrue cc s then doneTaken (.callCcNn cc nn) ((push16 s s.regs.pc).setPc nn) else done (.callCcNn cc nn) s

/-- `RET` (R458). -/
def execRet (s : State) : Result :=
  let r := pop16 s
  done .ret (r.2.setPc r.1)

/-- `RET cc` (R459): not taken, the stack is untouched. -/
def execRetCc (cc : Cond) (s : State) : Result :=
  let r := pop16 s
  if condTrue cc s then doneTaken (.retCc cc) (r.2.setPc r.1) else done (.retCc cc) s

/-- `RETI` (R460): an ordinary return that sets `ime`. -/
def execReti (s : State) : Result :=
  let r := pop16 s
  done .reti ((r.2.setPc r.1).setIme true)

/-- `RST t` (R462). -/
def execRstT (t : Fin 8) (s : State) : Result :=
  done (.rstT t) ((push16 s s.regs.pc).setPc (.ofNat 16 (t.val * 8)))


end Sys2Proof.Machine
end

