-- ==== Sys2Proof/Machine/Load16.lean ====
section
/-!
DEFINITION. The 16-bit loads, PUSH and POP (41_load16_stack.md R300 to R309). Only POP AF writes flags; none faults.
-/

namespace Sys2Proof.Machine

/-- `LD rr,nn` (R300). -/
def execLdRrNn (p : Reg16) (nn : Word) (s : State) : Result :=
  done (.ldRrNn p nn) (s.set16 p nn)

/-- `LD (nn),SP` (R301): the low byte first, to the lower address. -/
def execLdNnSp (nn : Word) (s : State) : Result :=
  done (.ldNnSp nn) (busWrite16 s nn s.regs.sp)

/-- `LD SP,HL` (R302). -/
def execLdSpHl (s : State) : Result :=
  done .ldSpHl (s.set16 .sp s.hl)

/-- `PUSH rr` (R304). -/
def execPushRr (p : StackPair) (s : State) : Result :=
  done (.pushRr p) (push16 s (s.get16 p.pair))

/-- `PUSH AF` (R307): `A : F` (10_state.md R46). -/
def execPushAf (s : State) : Result :=
  done .pushAf (push16 s (joinBytes s.regs.a s.regs.f))

/-- `POP rr` (R308). -/
def execPopRr (p : StackPair) (s : State) : Result :=
  let r := pop16 s
  done (.popRr p) (r.2.set16 p.pair r.1)

/-- `POP AF` (R309): the low nibble of the popped byte is discarded. -/
def execPopAf (s : State) : Result :=
  let r := pop16 s
  done .popAf ((r.2.set8 .a (hi8 r.1)).setF (lo8 r.1))


end Sys2Proof.Machine
end

