-- ==== Sys2Proof/Machine/Load8.lean ====
section
/-!
DEFINITION. The 8-bit loads (40_load8.md R250 to R268). No flag is written and none faults.
-/

namespace Sys2Proof.Machine

/-- `LD r,r'` (R250). -/
def execLdRR (dst src : Reg8) (s : State) : Result :=
  load8 (.ldRR dst src) dst (s.get8 src) s

/-- `LD r,n` (R251). -/
def execLdRN (dst : Reg8) (n : Byte) (s : State) : Result :=
  load8 (.ldRN dst n) dst n s

/-- `LD r,(HL)` (R252). -/
def execLdRHl (dst : Reg8) (s : State) : Result :=
  load8 (.ldRHl dst) dst (readHl s) s

/-- `LD (HL),r` (R253). -/
def execLdHlR (src : Reg8) (s : State) : Result :=
  store8 (.ldHlR src) s.hl (s.get8 src) s

/-- `LD (HL),n` (R254). -/
def execLdHlN (n : Byte) (s : State) : Result :=
  store8 (.ldHlN n) s.hl n s

/-- `LD A,(BC)` (R255). -/
def execLdABc (s : State) : Result :=
  load8 .ldABc .a (busRead s (s.get16 .bc)) s

/-- `LD A,(DE)` (R256). -/
def execLdADe (s : State) : Result :=
  load8 .ldADe .a (busRead s (s.get16 .de)) s

/-- `LD (BC),A` (R257). -/
def execLdBcA (s : State) : Result :=
  store8 .ldBcA (s.get16 .bc) (s.get8 .a) s

/-- `LD (DE),A` (R258). -/
def execLdDeA (s : State) : Result :=
  store8 .ldDeA (s.get16 .de) (s.get8 .a) s

/-- `LD A,(nn)` (R259). -/
def execLdANn (nn : Word) (s : State) : Result :=
  load8 (.ldANn nn) .a (busRead s nn) s

/-- `LD (nn),A` (R260). -/
def execLdNnA (nn : Word) (s : State) : Result :=
  store8 (.ldNnA nn) nn (s.get8 .a) s

/-- `LDH A,(C)` (R261). -/
def execLdhAC (s : State) : Result :=
  load8 .ldhAC .a (busRead s (highAddr (s.get8 .c))) s

/-- `LDH (C),A` (R262). -/
def execLdhCA (s : State) : Result :=
  store8 .ldhCA (highAddr (s.get8 .c)) (s.get8 .a) s

/-- `LDH A,(n)` (R263). -/
def execLdhAN (n : Byte) (s : State) : Result :=
  load8 (.ldhAN n) .a (busRead s (highAddr n)) s

/-- `LDH (n),A` (R264). -/
def execLdhNA (n : Byte) (s : State) : Result :=
  store8 (.ldhNA n) (highAddr n) (s.get8 .a) s

/-- `LD A,(HL-)` (R265). -/
def execLdAHlDec (s : State) : Result :=
  done .ldAHlDec ((s.set8 .a (readHl s)).set16 .hl (s.hl - 1))

/-- `LD (HL-),A` (R266): the write uses HL before the decrement. -/
def execLdHlDecA (s : State) : Result :=
  done .ldHlDecA ((writeHl s (s.get8 .a)).set16 .hl (s.hl - 1))

/-- `LD A,(HL+)` (R267). -/
def execLdAHlInc (s : State) : Result :=
  done .ldAHlInc ((s.set8 .a (readHl s)).set16 .hl (s.hl + 1))

/-- `LD (HL+),A` (R268): the write uses HL before the increment. -/
def execLdHlIncA (s : State) : Result :=
  done .ldHlIncA ((writeHl s (s.get8 .a)).set16 .hl (s.hl + 1))


end Sys2Proof.Machine
end

