-- ==== Sys2Proof/Machine/Rotate.lean ====
section
/-!
DEFINITION. The rotates, shifts and bit instructions (44_rotate_shift_bit.md R401 to R426). None faults.
-/

namespace Sys2Proof.Machine

/-- `RLCA` (R401): Z is 0 even when the result is 0. -/
def execRlca (s : State) : Result :=
  alu .rlca (rotateResult rlc s) s

/-- `RRCA` (R402): Z is 0 even when the result is 0. -/
def execRrca (s : State) : Result :=
  alu .rrca (rotateResult rrc s) s

/-- `RLA` (R403): Z is 0 even when the result is 0. -/
def execRla (s : State) : Result :=
  alu .rla (rotateResult rl s) s

/-- `RRA` (R404): Z is 0 even when the result is 0. -/
def execRra (s : State) : Result :=
  alu .rra (rotateResult rr s) s

/-- `RLC r` (R405). -/
def execRlcR (z : Reg8) (s : State) : Result :=
  modify8 (.rlcR z) z (shiftResult rlc (s.get8 z) s) s

/-- `RLC (HL)` (R406). -/
def execRlcHl (s : State) : Result :=
  modifyHl .rlcHl (shiftResult rlc (readHl s) s) s

/-- `RRC r` (R407). -/
def execRrcR (z : Reg8) (s : State) : Result :=
  modify8 (.rrcR z) z (shiftResult rrc (s.get8 z) s) s

/-- `RRC (HL)` (R408). -/
def execRrcHl (s : State) : Result :=
  modifyHl .rrcHl (shiftResult rrc (readHl s) s) s

/-- `RL r` (R409). -/
def execRlR (z : Reg8) (s : State) : Result :=
  modify8 (.rlR z) z (shiftResult rl (s.get8 z) s) s

/-- `RL (HL)` (R410). -/
def execRlHl (s : State) : Result :=
  modifyHl .rlHl (shiftResult rl (readHl s) s) s

/-- `RR r` (R411). -/
def execRrR (z : Reg8) (s : State) : Result :=
  modify8 (.rrR z) z (shiftResult rr (s.get8 z) s) s

/-- `RR (HL)` (R412). -/
def execRrHl (s : State) : Result :=
  modifyHl .rrHl (shiftResult rr (readHl s) s) s

/-- `SLA r` (R413). -/
def execSlaR (z : Reg8) (s : State) : Result :=
  modify8 (.slaR z) z (shiftResult sla (s.get8 z) s) s

/-- `SLA (HL)` (R414). -/
def execSlaHl (s : State) : Result :=
  modifyHl .slaHl (shiftResult sla (readHl s) s) s

/-- `SRA r` (R415). -/
def execSraR (z : Reg8) (s : State) : Result :=
  modify8 (.sraR z) z (shiftResult sra (s.get8 z) s) s

/-- `SRA (HL)` (R416). -/
def execSraHl (s : State) : Result :=
  modifyHl .sraHl (shiftResult sra (readHl s) s) s

/-- `SWAP r` (R417). -/
def execSwapR (z : Reg8) (s : State) : Result :=
  modify8 (.swapR z) z (shiftResult swap (s.get8 z) s) s

/-- `SWAP (HL)` (R418). -/
def execSwapHl (s : State) : Result :=
  modifyHl .swapHl (shiftResult swap (readHl s) s) s

/-- `SRL r` (R419). -/
def execSrlR (z : Reg8) (s : State) : Result :=
  modify8 (.srlR z) z (shiftResult srl (s.get8 z) s) s

/-- `SRL (HL)` (R420). -/
def execSrlHl (s : State) : Result :=
  modifyHl .srlHl (shiftResult srl (readHl s) s) s

/-- `BIT b,r` (R421): the register is not written. -/
def execBitR (b : Fin 8) (z : Reg8) (s : State) : Result :=
  done (.bitR b z) (s.setFlags (bitFlags b (s.get8 z) s.flags))

/-- `BIT b,(HL)` (R422): memory is not written. -/
def execBitHl (b : Fin 8) (s : State) : Result :=
  done (.bitHl b) (s.setFlags (bitFlags b (readHl s) s.flags))

/-- `RES b,r` (R423): no flag. -/
def execResR (b : Fin 8) (z : Reg8) (s : State) : Result :=
  load8 (.resR b z) z (resBit b (s.get8 z)) s

/-- `RES b,(HL)` (R424): a read, then a write through the bus. -/
def execResHl (b : Fin 8) (s : State) : Result :=
  store8 (.resHl b) s.hl (resBit b (readHl s)) s

/-- `SET b,r` (R425): no flag. -/
def execSetR (b : Fin 8) (z : Reg8) (s : State) : Result :=
  load8 (.setR b z) z (setBit b (s.get8 z)) s

/-- `SET b,(HL)` (R426): a read, then a write through the bus. -/
def execSetHl (b : Fin 8) (s : State) : Result :=
  store8 (.setHl b) s.hl (setBit b (readHl s)) s


end Sys2Proof.Machine
end

