-- ==== Sys2Proof/Machine/Misc.lean ====
section
/-!
DEFINITION. NOP, HALT, STOP, DI, EI, the prefix as an entry of the first table, and the illegal bytes (46_misc_control.md
R490 to R496).
-/

namespace Sys2Proof.Machine

/-- `NOP` (R490). -/
def execNop (s : State) : Result :=
  done .nop s

/-- `HALT` (R491): `IE`, `IF` and `ime` are not consulted. -/
def execHalt (s : State) : Result :=
  done .halt (s.setRunning false)

/-- `STOP` (R492): the operand byte is consumed and ignored; `DIV` is not reset. -/
def execStop (n : Byte) (s : State) : Result :=
  done (.stop n) (s.setRunning false)

/-- `DI` (R493). -/
def execDi (s : State) : Result :=
  done .di (s.setIme false)

/-- `EI` (R494): at once. -/
def execEi (s : State) : Result :=
  done .ei (s.setIme true)

/-- The second dispatch table: the routine of a byte after 0xCB (30_encoding.md R209, R210). -/
def routineCb (op2 : Byte) (s : State) : Result :=
  let y := op2.toNat / 8 % 8
  let bit := Fin.ofNat 8 y
  match op2.toNat / 64, reg8OfCode (op2.toNat % 8) with
  | 0, some z =>
    match y with
    | 0 => execRlcR z s
    | 1 => execRrcR z s
    | 2 => execRlR z s
    | 3 => execRrR z s
    | 4 => execSlaR z s
    | 5 => execSraR z s
    | 6 => execSwapR z s
    | _ => execSrlR z s
  | 0, none =>
    match y with
    | 0 => execRlcHl s
    | 1 => execRrcHl s
    | 2 => execRlHl s
    | 3 => execRrHl s
    | 4 => execSlaHl s
    | 5 => execSraHl s
    | 6 => execSwapHl s
    | _ => execSrlHl s
  | 1, some z => execBitR bit z s
  | 1, none => execBitHl bit s
  | 2, some z => execResR bit z s
  | 2, none => execResHl bit s
  | _, some z => execSetR bit z s
  | _, none => execSetHl bit s

/-- `PREFIX CB` (R495), when pc is past both bytes: the fault if `op2` has no routine, else the routine of `op2`, whose
cost it is. -/
def execPrefixCb (op2 : Byte) (s : State) : Result :=
  if op2 ∈ s.cfg.gapsCb then raiseUnimplemented .cb op2 (s.regs.pc - 2) s else routineCb op2 s

/-- `ILLEGAL` (R496), when pc is past the byte: always the fault (60_exceptions.md R520). -/
def execIllegal (op : Byte) (s : State) : Result :=
  raiseUnimplemented .base op (s.regs.pc - 1) s


end Sys2Proof.Machine
end

