-- ==== Sys2Proof/Machine/Dispatch.lean ====
section
/-!
DEFINITION. One arm per instruction: the dispatch table of routines (30_encoding.md R201). An instruction runs in the
state whose pc is past its bytes.
-/

namespace Sys2Proof.Machine

def exec (i : Instr) (s : State) : Host.Outcome State Fault Refusal :=
  match i with
  | .ldRR dst src => Sys2Proof.Machine.execLdRR dst src s
  | .ldRN dst n => Sys2Proof.Machine.execLdRN dst n s
  | .ldRHl dst => Sys2Proof.Machine.execLdRHl dst s
  | .ldHlR src => Sys2Proof.Machine.execLdHlR src s
  | .ldHlN n => Sys2Proof.Machine.execLdHlN n s
  | .ldABc => Sys2Proof.Machine.execLdABc s
  | .ldADe => Sys2Proof.Machine.execLdADe s
  | .ldBcA => Sys2Proof.Machine.execLdBcA s
  | .ldDeA => Sys2Proof.Machine.execLdDeA s
  | .ldANn nn => Sys2Proof.Machine.execLdANn nn s
  | .ldNnA nn => Sys2Proof.Machine.execLdNnA nn s
  | .ldhAC => Sys2Proof.Machine.execLdhAC s
  | .ldhCA => Sys2Proof.Machine.execLdhCA s
  | .ldhAN n => Sys2Proof.Machine.execLdhAN n s
  | .ldhNA n => Sys2Proof.Machine.execLdhNA n s
  | .ldAHlDec => Sys2Proof.Machine.execLdAHlDec s
  | .ldHlDecA => Sys2Proof.Machine.execLdHlDecA s
  | .ldAHlInc => Sys2Proof.Machine.execLdAHlInc s
  | .ldHlIncA => Sys2Proof.Machine.execLdHlIncA s
  | .ldRrNn p nn => Sys2Proof.Machine.execLdRrNn p nn s
  | .ldNnSp nn => Sys2Proof.Machine.execLdNnSp nn s
  | .ldSpHl => Sys2Proof.Machine.execLdSpHl s
  | .pushRr p => Sys2Proof.Machine.execPushRr p s
  | .pushAf => Sys2Proof.Machine.execPushAf s
  | .popRr p => Sys2Proof.Machine.execPopRr p s
  | .popAf => Sys2Proof.Machine.execPopAf s
  | .addAR src => Sys2Proof.Machine.execAddAR src s
  | .addAHl => Sys2Proof.Machine.execAddAHl s
  | .addAN n => Sys2Proof.Machine.execAddAN n s
  | .adcAR src => Sys2Proof.Machine.execAdcAR src s
  | .adcAHl => Sys2Proof.Machine.execAdcAHl s
  | .adcAN n => Sys2Proof.Machine.execAdcAN n s
  | .subR src => Sys2Proof.Machine.execSubR src s
  | .subHl => Sys2Proof.Machine.execSubHl s
  | .subN n => Sys2Proof.Machine.execSubN n s
  | .sbcAR src => Sys2Proof.Machine.execSbcAR src s
  | .sbcAHl => Sys2Proof.Machine.execSbcAHl s
  | .sbcAN n => Sys2Proof.Machine.execSbcAN n s
  | .andR src => Sys2Proof.Machine.execAndR src s
  | .andHl => Sys2Proof.Machine.execAndHl s
  | .andN n => Sys2Proof.Machine.execAndN n s
  | .xorR src => Sys2Proof.Machine.execXorR src s
  | .xorHl => Sys2Proof.Machine.execXorHl s
  | .xorN n => Sys2Proof.Machine.execXorN n s
  | .orR src => Sys2Proof.Machine.execOrR src s
  | .orHl => Sys2Proof.Machine.execOrHl s
  | .orN n => Sys2Proof.Machine.execOrN n s
  | .cpR src => Sys2Proof.Machine.execCpR src s
  | .cpHl => Sys2Proof.Machine.execCpHl s
  | .cpN n => Sys2Proof.Machine.execCpN n s
  | .incR dst => Sys2Proof.Machine.execIncR dst s
  | .incHl => Sys2Proof.Machine.execIncHl s
  | .decR dst => Sys2Proof.Machine.execDecR dst s
  | .decHl => Sys2Proof.Machine.execDecHl s
  | .daa => Sys2Proof.Machine.execDaa s
  | .cpl => Sys2Proof.Machine.execCpl s
  | .scf => Sys2Proof.Machine.execScf s
  | .ccf => Sys2Proof.Machine.execCcf s
  | .addHlRr p => Sys2Proof.Machine.execAddHlRr p s
  | .incRr p => Sys2Proof.Machine.execIncRr p s
  | .decRr p => Sys2Proof.Machine.execDecRr p s
  | .addSpE e => Sys2Proof.Machine.execAddSpE e s
  | .ldHlSpE e => Sys2Proof.Machine.execLdHlSpE e s
  | .rlca => Sys2Proof.Machine.execRlca s
  | .rrca => Sys2Proof.Machine.execRrca s
  | .rla => Sys2Proof.Machine.execRla s
  | .rra => Sys2Proof.Machine.execRra s
  | .jpNn nn => Sys2Proof.Machine.execJpNn nn s
  | .jpCcNn cc nn => Sys2Proof.Machine.execJpCcNn cc nn s
  | .jpHl => Sys2Proof.Machine.execJpHl s
  | .jrE e => Sys2Proof.Machine.execJrE e s
  | .jrCcE cc e => Sys2Proof.Machine.execJrCcE cc e s
  | .callNn nn => Sys2Proof.Machine.execCallNn nn s
  | .callCcNn cc nn => Sys2Proof.Machine.execCallCcNn cc nn s
  | .ret => Sys2Proof.Machine.execRet s
  | .retCc cc => Sys2Proof.Machine.execRetCc cc s
  | .reti => Sys2Proof.Machine.execReti s
  | .rstT t => Sys2Proof.Machine.execRstT t s
  | .nop => Sys2Proof.Machine.execNop s
  | .halt => Sys2Proof.Machine.execHalt s
  | .stop n => Sys2Proof.Machine.execStop n s
  | .di => Sys2Proof.Machine.execDi s
  | .ei => Sys2Proof.Machine.execEi s
  | .prefixCb op2 => Sys2Proof.Machine.execPrefixCb op2 s
  | .illegal op => Sys2Proof.Machine.execIllegal op s
  | .rlcR z => Sys2Proof.Machine.execRlcR z s
  | .rlcHl => Sys2Proof.Machine.execRlcHl s
  | .rrcR z => Sys2Proof.Machine.execRrcR z s
  | .rrcHl => Sys2Proof.Machine.execRrcHl s
  | .rlR z => Sys2Proof.Machine.execRlR z s
  | .rlHl => Sys2Proof.Machine.execRlHl s
  | .rrR z => Sys2Proof.Machine.execRrR z s
  | .rrHl => Sys2Proof.Machine.execRrHl s
  | .slaR z => Sys2Proof.Machine.execSlaR z s
  | .slaHl => Sys2Proof.Machine.execSlaHl s
  | .sraR z => Sys2Proof.Machine.execSraR z s
  | .sraHl => Sys2Proof.Machine.execSraHl s
  | .swapR z => Sys2Proof.Machine.execSwapR z s
  | .swapHl => Sys2Proof.Machine.execSwapHl s
  | .srlR z => Sys2Proof.Machine.execSrlR z s
  | .srlHl => Sys2Proof.Machine.execSrlHl s
  | .bitR b z => Sys2Proof.Machine.execBitR b z s
  | .bitHl b => Sys2Proof.Machine.execBitHl b s
  | .resR b z => Sys2Proof.Machine.execResR b z s
  | .resHl b => Sys2Proof.Machine.execResHl b s
  | .setR b z => Sys2Proof.Machine.execSetR b z s
  | .setHl b => Sys2Proof.Machine.execSetHl b s

end Sys2Proof.Machine
end

