-- ==== Sys2Proof/Machine/Step.lean ====
section
/-!
DEFINITION. The single step (30_encoding.md R200) and the placing of an instruction where the next step fetches it.
-/

namespace Sys2Proof.Machine

/-- The single-step operation (R200): when the console is not running nothing happens; otherwise the instruction at pc
is fetched, pc moves past it, and its routine runs. A byte without a routine raises the fault (R210, R212). The cost is
added to `cycles` at the end of the routine. -/
def step (s : State) : Host.Outcome State Fault Refusal :=
  if s.running then
    match fetchInstr s with
    | .instr i s' => exec i s'
    | .missing table op addr s' => raiseUnimplemented table op addr s'
  else .next s

/-- The state with an instruction word placed at pc, as a cartridge or a memory image that the host supplies would hold
it, and with the console running, as a load leaves it (70_reset_and_hazards.md R582, log entry 2). The first byte of
the instruction is bits 7 to 0 of `w`. -/
def State.withFetchWord (s : State) (nbits w : Nat) : State :=
  let v := w % 2 ^ nbits
  (placeBytes s s.regs.pc [.ofNat 8 v, .ofNat 8 (v / 256), .ofNat 8 (v / 65536)]).setRunning true

end Sys2Proof.Machine
end

