-- ==== Sys2Proof/Machine/HostOps.lean ====
section
/-!
DEFINITION. The other operations of the host (70_reset_and_hazards.md R570 to R582): loading a cartridge, the launch
state, the cost a step returns, and the frame run. They are functions over the Console State beside `step`; the host
calls them between whole steps (R580).
-/

namespace Sys2Proof.Machine

/-- What the cartridge collaborator supplies on success: `ROM`, `ROM_LEN`, `CRAM`, `CRAM_LEN` (R582). -/
structure CartridgeImage where
  cart : Cartridge
  cram : Memory
deriving DecidableEq, Repr

/-- `load_cartridge` (R582): the collaborator supplies an image or fails. The first component is what the host is told.
A failure clears `running` and changes nothing else; a success installs the cartridge, resets the register file and
`ime`, sets `running`, and changes nothing else. -/
def loadCartridge (image : Option CartridgeImage) (s : State) : Bool × State :=
  match image with
  | none => (false, s.setRunning false)
  | some im =>
    (true,
      { s with
        cart := im.cart
        cram := im.cram
        regs := s.cfg.resetRegs
        ime := false
        running := true })

/-- `Launched(ROM, ROM_LEN, CRAM, CRAM_LEN)` (R572): creation followed at once by one successful load. -/
def State.launched (cfg : Config) (init : InitMem) (im : CartridgeImage) : State :=
  (loadCartridge (some im) (State.created cfg init)).2

/-- The cost a step from `s` to `t` returns to the host: what was added to `cycles` (30_encoding.md R200, C6). -/
def stepCost (s t : State) : Nat := t.cycles - s.cycles

/-- The cycle budget of one frame (00_scope.md R9, C2). -/
def frameBudget : Nat := 70224

/-- The loop of `run_one_frame` (R581) from `elapsed` cycles, for at most `fuel` steps: the running flag is tested
before each step, and a fault ends the loop. -/
def frameLoop : Nat → Nat → State → Result
  | 0, _, s => .next s
  | fuel + 1, elapsed, s =>
    if elapsed < frameBudget ∧ s.running = true then
      match step s with
      | .next t => frameLoop fuel (elapsed + stepCost s t) t
      | .fault r => .fault r
      | .refused r => .refused r
    else .next s

/-- `run_one_frame()` (R581). Every implemented instruction costs at least 1 (R600), so the loop ends within as many
steps as the budget has cycles. -/
def runOneFrame (s : State) : Result := frameLoop frameBudget 0 s

end Sys2Proof.Machine
end

