-- ==== Sys2Proof/Safety.lean ====
section
/-!
DEFINITION. The terms the claims use: what a register-only instruction leaves alone, which addresses one bus write can
change, the invariant of the machine, and the part of the state a program can see.
-/

namespace Sys2Proof.Machine

/-! ### Frames -/

/-- The two states agree outside the register file and the cycle counter: every byte of memory reads as before, and
every other piece of state is equal. -/
def SameOutsideRegs (s t : State) : Prop :=
  (∀ a, busRead t a = busRead s a) ∧ t.io = s.io ∧ t.ie = s.ie ∧ t.ime = s.ime ∧ t.running = s.running ∧
  t.serialOut = s.serialOut ∧ t.cart = s.cart ∧ t.cfg = s.cfg

/-- Register `dst` holds `v`; every other 8-bit register, SP and pc are unchanged. The flags are left to the claim. -/
def Writes8 (dst : Reg8) (v : Byte) (s t : State) : Prop :=
  t.get8 dst = v ∧ (∀ r, r ≠ dst → t.get8 r = s.get8 r) ∧ t.regs.sp = s.regs.sp ∧ t.regs.pc = s.regs.pc

/-- Pair or stack pointer `p` holds `w`; every other pair, SP, A and pc are unchanged. The flags are left to the
claim. -/
def Writes16 (p : Reg16) (w : Word) (s t : State) : Prop :=
  t.get16 p = w ∧ (∀ q, q ≠ p → t.get16 q = s.get16 q) ∧ t.get8 .a = s.get8 .a ∧ t.regs.pc = s.regs.pc

/-- No general register, SP or pc changed. The flags are left to the claim. -/
def SameRegs (s t : State) : Prop :=
  (∀ r, t.get8 r = s.get8 r) ∧ t.regs.sp = s.regs.sp ∧ t.regs.pc = s.regs.pc

/-- No general register, no flag and not SP changed; pc is `w`. -/
def JumpsTo (w : Word) (s t : State) : Prop :=
  (∀ r, t.get8 r = s.get8 r) ∧ t.regs.f = s.regs.f ∧ t.regs.sp = s.regs.sp ∧ t.regs.pc = w

/-- F holds exactly these flags, with its low nibble 0. -/
def HasFlags (t : State) (z n h c : Bool) : Prop :=
  t.flags = { z := z, n := n, h := h, c := c } ∧ t.regs.f &&& 0x0F = 0

/-- The step's cost was the base cost of `i` (30_encoding.md R203). -/
def CostsBase (i : Instr) (s t : State) : Prop := t.cycles = s.cycles + s.cfg.baseCost i

/-- The step's cost was the base and the extra cost of `i`. -/
def CostsTaken (i : Instr) (s t : State) : Prop := t.cycles = s.cycles + s.cfg.baseCost i + s.cfg.extraCost i

/-! ### What one bus write can change -/

/-- The two addresses name one cell: equal, an address of Work RAM and its echo (20_memory.md R107), or two addresses
of one I/O register (there are none where `IOMAP` is injective). -/
def SameCell (cfg : Config) (a b : Word) : Prop :=
  a = b ∨
  (region a = .wram ∧ region b = .echo ∧ b.toNat = a.toNat + 0x2000) ∨
  (region a = .echo ∧ region b = .wram ∧ a.toNat = b.toNat + 0x2000) ∨
  (region a = .io ∧ region b = .io ∧ cfg.ioAt a = cfg.ioAt b ∧ cfg.ioAt a ≠ none)

/-- A bus write of `v` at `a` can change what address `b` reads as: they name one cell, or the write is one of the two
with an effect on other cells (20_memory.md R118): a write to `DMA` changes OAM, a write to `SC` with bit 7 set changes
`IF`. -/
def Touches (cfg : Config) (a : Word) (v : Byte) (b : Word) : Prop :=
  SameCell cfg a b ∨
  (region a = .io ∧ cfg.ioAt a = some .dma ∧ region b = .oam) ∨
  (region a = .io ∧ cfg.ioAt a = some .sc ∧ v.getLsbD 7 = true ∧ region b = .io ∧ cfg.ioAt b = some .iflag)

/-- Outside the register file and the cycle counter, `t` is `s` after one bus write of `v` at `a`, and every byte the
write does not touch reads as in `s`. -/
def StoresByte (a : Word) (v : Byte) (s t : State) : Prop :=
  SameOutsideRegs (busWrite s a v) t ∧ ∀ b, ¬ Touches s.cfg a v b → busRead t b = busRead s b

/-- The same for two bus writes, of `v` at `a` and then of `w` at `b`. -/
def StoresTwo (a : Word) (v : Byte) (b : Word) (w : Byte) (s t : State) : Prop :=
  SameOutsideRegs (busWrite (busWrite s a v) b w) t ∧
  ∀ c, ¬ Touches s.cfg a v c → ¬ Touches s.cfg b w c → busRead t c = busRead s c

/-- `t` is `s` after `w` was pushed: the high byte at SP - 1, the low byte at SP - 2, SP two lower, and no other
register changed but pc (41_load16_stack.md R305). -/
def Pushes (w : Word) (s t : State) : Prop :=
  StoresTwo (s.regs.sp - 1) (hi8 w) (s.regs.sp - 2) (lo8 w) s t ∧
  t.regs.sp = s.regs.sp - 2 ∧ (∀ r, t.get8 r = s.get8 r) ∧ t.regs.f = s.regs.f

/-- The word a pop reads: the byte at SP low, the byte at SP + 1 high (R306). -/
def stackTop (s : State) : Word := joinBytes (busRead s (s.regs.sp + 1)) (busRead s s.regs.sp)

/-- The byte `a` reads as after a bus write of `v` there: what each row of the partition and each write rule of the I/O
block leaves (20_memory.md R102 to R110, R126 to R143). -/
def readBack (s : State) (a : Word) (v : Byte) : Byte :=
  match region a with
  | .vram | .wram | .echo | .oam | .hram | .ie => v
  | .cram => if a.toNat - 0xA000 < s.cart.cramLen then v else 0xFF
  | .romFixed | .romSwitch | .unusable => busRead s a
  | .io =>
    match s.cfg.ioAt a with
    | none => 0xFF
    | some .joyp => (s.io.joyp &&& 0xCF) ||| (v &&& 0x30)
    | some .sc => v &&& 0x7F
    | some .div => 0x00
    | some .tac => v &&& 0x07
    | some .iflag => (v &&& 0x1F) ||| 0xE0
    | some .stat => (s.io.stat &&& 0x87) ||| (v &&& 0x78) ||| 0x80
    | some .ly => s.io.ly
    | some _ => v

/-- The stored value of a register of the block after a bus write of `v` to it (20_memory.md R130 to R143). -/
def storedAfter (io : IoBlock) (r : IoReg) (v : Byte) : Byte :=
  match r with
  | .joyp => (io.joyp &&& 0xCF) ||| (v &&& 0x30)
  | .sc => v &&& 0x7F
  | .div => 0x00
  | .tac => v &&& 0x07
  | .iflag => v &&& 0x1F
  | .stat => (io.stat &&& 0x87) ||| (v &&& 0x78)
  | .ly => io.ly
  | _ => v

/-! ### What a claim says of one instruction -/

/-- `i` is the instruction of the bytes `bytes`, whatever follows them, and costs `base` by default: the encoding, the
length and the cost of its rule. -/
def Row (i : Instr) (bytes : List Byte) (base : Nat) : Prop :=
  (∀ rest, decode (bytes ++ rest) = .ok (i, rest)) ∧ Config.default.baseCost i = base

/-- `i` completes, puts `v` into `dst`, and changes no flag, no other register, no memory and nothing else. -/
def Loads (i : Instr) (s : State) (dst : Reg8) (v : Byte) : Prop :=
  ∃ t, exec i s = .next t ∧ Writes8 dst v s t ∧ t.regs.f = s.regs.f ∧ SameOutsideRegs s t ∧ CostsBase i s t

/-- `i` completes, puts `v` into `dst`, sets the four flags, and changes no other register, no memory and nothing
else. -/
def Sets (i : Instr) (s : State) (dst : Reg8) (v : Byte) (z n h c : Bool) : Prop :=
  ∃ t, exec i s = .next t ∧ Writes8 dst v s t ∧ HasFlags t z n h c ∧ SameOutsideRegs s t ∧ CostsBase i s t

/-- `i` completes, sets the four flags, and changes no general register, not SP, no memory and nothing else. -/
def SetsFlags (i : Instr) (s : State) (z n h c : Bool) : Prop :=
  ∃ t, exec i s = .next t ∧ SameRegs s t ∧ HasFlags t z n h c ∧ SameOutsideRegs s t ∧ CostsBase i s t

/-- `i` completes, makes one bus write of `v` at `a`, and changes no register, no flag and nothing else. -/
def Stores (i : Instr) (s : State) (a : Word) (v : Byte) : Prop :=
  ∃ t, exec i s = .next t ∧ StoresByte a v s t ∧ SameRegs s t ∧ t.regs.f = s.regs.f ∧ CostsBase i s t

/-- `i` completes, makes one bus write of `v` at HL, sets the four flags, and changes no general register, not SP and
nothing else. -/
def StoresAtHl (i : Instr) (s : State) (v : Byte) (z n h c : Bool) : Prop :=
  ∃ t, exec i s = .next t ∧ StoresByte s.hl v s t ∧ SameRegs s t ∧ HasFlags t z n h c ∧ CostsBase i s t

/-- `i` completes, puts `w` into `p`, and changes no flag, no other pair, not A, no memory and nothing else. -/
def Loads16 (i : Instr) (s : State) (p : Reg16) (w : Word) : Prop :=
  ∃ t, exec i s = .next t ∧ Writes16 p w s t ∧ t.regs.f = s.regs.f ∧ SameOutsideRegs s t ∧ CostsBase i s t

/-- `i` completes, puts `w` into `p`, sets the four flags, and changes no other pair, not A, no memory and nothing
else. -/
def Sets16 (i : Instr) (s : State) (p : Reg16) (w : Word) (z n h c : Bool) : Prop :=
  ∃ t, exec i s = .next t ∧ Writes16 p w s t ∧ HasFlags t z n h c ∧ SameOutsideRegs s t ∧ CostsBase i s t

/-- `i` completes as `ADD` does with operand `v` and carry-in `cin` (42_alu8.md R330). -/
def AddsToA (i : Instr) (s : State) (v : Byte) (cin : Nat) : Prop :=
  let a := (s.get8 .a).toNat
  Sets i s .a (.ofNat 8 (a + v.toNat + cin)) (decide ((a + v.toNat + cin) % 256 = 0)) false
    (decide (a % 16 + v.toNat % 16 + cin > 0x0F)) (decide (a + v.toNat + cin > 0xFF))

/-- `i` completes as `SUB` does with operand `v` and borrow-in `cin` (42_alu8.md R331): `256 + a - v - cin` is the
difference modulo 256. -/
def SubtractsFromA (i : Instr) (s : State) (v : Byte) (cin : Nat) : Prop :=
  let a := (s.get8 .a).toNat
  Sets i s .a (.ofNat 8 (256 + a - v.toNat - cin)) (decide ((256 + a - v.toNat - cin) % 256 = 0)) true
    (decide (a % 16 < v.toNat % 16 + cin)) (decide (a < v.toNat + cin))

/-- `i` completes as `CP` does with operand `v` (42_alu8.md R355): A is not written. -/
def ComparesA (i : Instr) (s : State) (v : Byte) : Prop :=
  let a := (s.get8 .a).toNat
  SetsFlags i s (decide (s.get8 .a = v)) true (decide (a % 16 < v.toNat % 16)) (decide (a < v.toNat))

/-- `i` completes and rotates or shifts register `r` to the byte `res` with carry out `c` (44_rotate_shift_bit.md,
section 3). -/
def ShiftsReg (i : Instr) (s : State) (r : Reg8) (res : Nat) (c : Bool) : Prop :=
  Sets i s r (.ofNat 8 res) (decide (res = 0)) false false c

/-- `i` completes and writes the rotated or shifted byte `res` at HL, with carry out `c`. -/
def ShiftsHl (i : Instr) (s : State) (res : Nat) (c : Bool) : Prop :=
  StoresAtHl i s (.ofNat 8 res) (decide (res = 0)) false false c

/-- The condition holds (45_control_flow.md R450). -/
def Holds (cc : Cond) (s : State) : Prop :=
  match cc with
  | .nz => s.flags.z = false
  | .z => s.flags.z = true
  | .nc => s.flags.c = false
  | .c => s.flags.c = true

/-- `i` is a conditional instruction whose condition holds, so that its routine reports its extra cycles (30_encoding.md
R203, 45_control_flow.md R450). -/
def Taken (s : State) : Instr → Prop
  | .jpCcNn cc _ | .jrCcE cc _ | .callCcNn cc _ | .retCc cc => Holds cc s
  | .ldRR _ _ | .ldRN _ _ | .ldRHl _ | .ldHlR _ | .ldHlN _ | .ldABc | .ldADe | .ldBcA | .ldDeA | .ldANn _ => False
  | .ldNnA _ | .ldhAC | .ldhCA | .ldhAN _ | .ldhNA _ | .ldAHlDec | .ldHlDecA | .ldAHlInc | .ldHlIncA => False
  | .ldRrNn _ _ | .ldNnSp _ | .ldSpHl | .pushRr _ | .pushAf | .popRr _ | .popAf | .addAR _ | .addAHl | .addAN _ => False
  | .adcAR _ | .adcAHl | .adcAN _ | .subR _ | .subHl | .subN _ | .sbcAR _ | .sbcAHl | .sbcAN _ | .andR _ => False
  | .andHl | .andN _ | .xorR _ | .xorHl | .xorN _ | .orR _ | .orHl | .orN _ | .cpR _ | .cpHl | .cpN _ | .incR _ => False
  | .incHl | .decR _ | .decHl | .daa | .cpl | .scf | .ccf | .addHlRr _ | .incRr _ | .decRr _ | .addSpE _ => False
  | .ldHlSpE _ | .rlca | .rrca | .rla | .rra | .jpNn _ | .jpHl | .jrE _ | .callNn _ | .ret | .reti | .rstT _ => False
  | .nop | .halt | .stop _ | .di | .ei | .prefixCb _ | .illegal _ | .rlcR _ | .rlcHl | .rrcR _ | .rrcHl | .rlR _ => False
  | .rlHl | .rrR _ | .rrHl | .slaR _ | .slaHl | .sraR _ | .sraHl | .swapR _ | .swapHl | .srlR _ | .srlHl => False
  | .bitR _ _ | .bitHl _ | .resR _ _ | .resHl _ | .setR _ _ | .setHl _ => False

/-- `i` completes with the base cost, sets pc to `w`, and changes no other register, no flag, no memory and nothing
else. -/
def Jumps (i : Instr) (s : State) (w : Word) : Prop :=
  ∃ t, exec i s = .next t ∧ JumpsTo w s t ∧ SameOutsideRegs s t ∧ CostsBase i s t

/-- As `Jumps`, with the base and the extra cost: a conditional jump that is taken. -/
def JumpsTaken (i : Instr) (s : State) (w : Word) : Prop :=
  ∃ t, exec i s = .next t ∧ JumpsTo w s t ∧ SameOutsideRegs s t ∧ CostsTaken i s t

/-- `t` is `s` after a return: pc is the popped word, SP is two higher, and no other register, no flag and nothing else
changed, but that `ime` is `ime` (45_control_flow.md R458, R460). -/
def Returns (ime : Bool) (s t : State) : Prop :=
  t.regs.pc = stackTop s ∧ t.regs.sp = s.regs.sp + 2 ∧ (∀ r, t.get8 r = s.get8 r) ∧ t.regs.f = s.regs.f ∧
  SameOutsideRegs (s.setIme ime) t

/-- The instructions that may set pc (45_control_flow.md). -/
def SetsPc : Instr → Prop
  | .jpNn _ | .jpCcNn _ _ | .jpHl | .jrE _ | .jrCcE _ _ => True
  | .callNn _ | .callCcNn _ _ | .ret | .retCc _ | .reti | .rstT _ => True
  | .ldRR _ _ | .ldRN _ _ | .ldRHl _ | .ldHlR _ | .ldHlN _ | .ldABc | .ldADe | .ldBcA | .ldDeA | .ldANn _ => False
  | .ldNnA _ | .ldhAC | .ldhCA | .ldhAN _ | .ldhNA _ | .ldAHlDec | .ldHlDecA | .ldAHlInc | .ldHlIncA => False
  | .ldRrNn _ _ | .ldNnSp _ | .ldSpHl | .pushRr _ | .pushAf | .popRr _ | .popAf | .addAR _ | .addAHl | .addAN _ => False
  | .adcAR _ | .adcAHl | .adcAN _ | .subR _ | .subHl | .subN _ | .sbcAR _ | .sbcAHl | .sbcAN _ | .andR _ => False
  | .andHl | .andN _ | .xorR _ | .xorHl | .xorN _ | .orR _ | .orHl | .orN _ | .cpR _ | .cpHl | .cpN _ | .incR _ => False
  | .incHl | .decR _ | .decHl | .daa | .cpl | .scf | .ccf | .addHlRr _ | .incRr _ | .decRr _ | .addSpE _ => False
  | .ldHlSpE _ | .rlca | .rrca | .rla | .rra | .nop | .halt | .stop _ | .di | .ei | .prefixCb _ | .illegal _ => False
  | .rlcR _ | .rlcHl | .rrcR _ | .rrcHl | .rlR _ | .rlHl | .rrR _ | .rrHl | .slaR _ | .slaHl | .sraR _ | .sraHl => False
  | .swapR _ | .swapHl | .srlR _ | .srlHl | .bitR _ _ | .bitHl _ | .resR _ _ | .resHl _ | .setR _ _ | .setHl _ => False

/-- The instructions that may change a flag (10_state.md R53). -/
def WritesFlags : Instr → Prop
  | .addAR _ | .addAHl | .addAN _ | .adcAR _ | .adcAHl | .adcAN _ => True
  | .subR _ | .subHl | .subN _ | .sbcAR _ | .sbcAHl | .sbcAN _ => True
  | .andR _ | .andHl | .andN _ | .xorR _ | .xorHl | .xorN _ | .orR _ | .orHl | .orN _ => True
  | .cpR _ | .cpHl | .cpN _ | .incR _ | .incHl | .decR _ | .decHl => True
  | .daa | .cpl | .scf | .ccf | .addHlRr _ | .addSpE _ | .ldHlSpE _ | .popAf => True
  | .rlca | .rrca | .rla | .rra => True
  | .rlcR _ | .rlcHl | .rrcR _ | .rrcHl | .rlR _ | .rlHl | .rrR _ | .rrHl => True
  | .slaR _ | .slaHl | .sraR _ | .sraHl | .swapR _ | .swapHl | .srlR _ | .srlHl => True
  | .bitR _ _ | .bitHl _ | .prefixCb _ => True
  | .ldRR _ _ | .ldRN _ _ | .ldRHl _ | .ldHlR _ | .ldHlN _ | .ldABc | .ldADe | .ldBcA | .ldDeA | .ldANn _ => False
  | .ldNnA _ | .ldhAC | .ldhCA | .ldhAN _ | .ldhNA _ | .ldAHlDec | .ldHlDecA | .ldAHlInc | .ldHlIncA => False
  | .ldRrNn _ _ | .ldNnSp _ | .ldSpHl | .pushRr _ | .pushAf | .popRr _ | .incRr _ | .decRr _ | .jpNn _ => False
  | .jpCcNn _ _ | .jpHl | .jrE _ | .jrCcE _ _ | .callNn _ | .callCcNn _ _ | .ret | .retCc _ | .reti | .rstT _ => False
  | .nop | .halt | .stop _ | .di | .ei | .illegal _ | .resR _ _ | .resHl _ | .setR _ _ | .setHl _ => False

/-! ### The invariant -/

/-- What holds of every reachable state: the low nibble of F is 0 (10_state.md R43), every memory region is canonical
and within its size (R55, R56), and the bits of the I/O block that no bus write can change stay as they were at reset
(R63, R65, R66, R67, R68, 20_memory.md R133, R141). -/
structure State.Inv (s : State) : Prop where
  flagsLow : s.regs.f &&& 0x0F = 0
  vramWf : s.vram.wf ∧ s.vram.below 0x2000
  wramWf : s.wram.wf ∧ s.wram.below 0x2000
  oamWf : s.oam.wf ∧ s.oam.below 160
  hramWf : s.hram.wf ∧ s.hram.below 127
  cramWf : s.cram.wf ∧ s.cram.below s.cart.cramLen
  joypFixed : s.io.joyp &&& 0xCF = 0xCF
  statFixed : s.io.stat &&& 0x87 = 0x85
  scIdle : s.io.sc.getLsbD 7 = false
  lyZero : s.io.ly = 0x00
  divValues : s.io.div = 0xAB ∨ s.io.div = 0x00
  tacValues : s.io.tac = 0xF8 ∨ s.io.tac &&& 0xF8 = 0
  iflagHigh : s.io.iflag &&& 0xE0 = 0xE0 ∨ s.io.iflag &&& 0xE0 = 0

/-! ### What a program can see -/

/-- The state without what no instruction reads: `ime`, `cycles` and `serial_out` (10_state.md R71 to R73). -/
def State.visible (s : State) : State := { s with ime := false, cycles := 0, serialOut := [] }

/-- The visible part of an outcome. -/
def visibleResult : Result → Result
  | .next s => .next s.visible
  | .fault (.unimplementedOpcode table op addr after) => .fault (.unimplementedOpcode table op addr after.visible)
  | .refused r => .refused r

end Sys2Proof.Machine
end

