-- ==== Sys2Proof/Certificates/Slice0/Obligations.lean ====
section
/-!
DEFINITION. The statements for the provers. Each docstring names the rules of spec/ it states. Of the instruction set
itself the spec says "from general knowledge, not in source" (decision D1): the rules it gives are the spec's.
-/

open Sys2Proof Sys2Proof.Machine

/-! ### Encoding -/

/-- O1. Decode and encode agree: the bytes of every well-formed instruction, whatever follows them, decode to it and to
what follows (30_encoding.md, sections 2 to 7). -/
def Obligations.DecodeEncode : Prop :=
  ∀ (i : Instr) (rest : List Byte), i.WellFormed → decode (encode i ++ rest) = .ok (i, rest)

/-- O2. Every byte starts exactly one instruction or is one of the eleven illegal bytes: what the decoder reads from any
three bytes is well-formed, and its encoding is the bytes it took (30_encoding.md, sections 4, 6 and 7). -/
def Obligations.EncodeDecode : Prop :=
  ∀ (b0 b1 b2 : Byte),
    (decodeOne b0 b1 b2).WellFormed ∧
    encode (decodeOne b0 b1 b2) = [b0, b1, b2].take (instrLength b0) ∧
    (b0 ∈ illegalOpcodes ↔ decodeOne b0 b1 b2 = .illegal b0)

/-- O3. Words written out from the opcode map: one or two of each family (30_encoding.md, sections 3 and 4). -/
def Obligations.DecodeWords : Prop :=
  decode [0x78] = .ok (.ldRR .a .b, []) ∧
  decode [0x36, 0x99] = .ok (.ldHlN 0x99, []) ∧
  decode [0xEA, 0x46, 0xFF] = .ok (.ldNnA 0xFF46, []) ∧
  decode [0x21, 0x34, 0x12] = .ok (.ldRrNn .hl 0x1234, []) ∧
  decode [0xD1] = .ok (.popRr .de, []) ∧
  decode [0x9C] = .ok (.sbcAR .h, []) ∧
  decode [0x27] = .ok (.daa, []) ∧
  decode [0x39] = .ok (.addHlRr .sp, []) ∧
  decode [0xF8, 0x08] = .ok (.ldHlSpE 0x08, []) ∧
  decode [0x1F] = .ok (.rra, []) ∧
  decode [0xCB, 0x2F] = .ok (.sraR .a, []) ∧
  decode [0xCB, 0x65] = .ok (.bitR 4 .l, []) ∧
  decode [0xCB, 0xDE] = .ok (.setHl 3, []) ∧
  decode [0xDC, 0x00, 0x40] = .ok (.callCcNn .c 0x4000, []) ∧
  decode [0x20, 0xFC] = .ok (.jrCcE .nz 0xFC, []) ∧
  decode [0xEF] = .ok (.rstT 5, []) ∧
  decode [0x10, 0x00] = .ok (.stop 0x00, []) ∧
  decode [0x76] = .ok (.halt, []) ∧
  decode [0xDD] = .ok (.illegal 0xDD, [])

/-! ### The step and its fault -/

/-- O4. A step runs the decoded instruction: where the three bytes at pc decode to `i` and neither its first byte nor,
after 0xCB, its second is a gap of the dispatch tables, the step of a running console is `i` with pc past its bytes. Of
a console that is not running a step changes nothing, costs nothing and raises nothing, and a frame run ends at once
(30_encoding.md, sections 1 and 5; 70_reset_and_hazards.md section 2). -/
def Obligations.StepRunsDecoded : Prop :=
  (∀ (s : State) (i : Instr) (rest : List Byte), s.running = true →
    decode [busRead s s.regs.pc, busRead s (s.regs.pc + 1), busRead s (s.regs.pc + 2)] = .ok (i, rest) →
    busRead s s.regs.pc ∉ s.cfg.gapsBase →
    (busRead s s.regs.pc = 0xCB → busRead s (s.regs.pc + 1) ∉ s.cfg.gapsCb) →
    step s = exec i (s.setPc (s.regs.pc + .ofNat 16 (encode i).length))) ∧
  (∀ (s : State), s.running = false →
    step s = .next s ∧ stepCost s s = 0 ∧ runOneFrame s = .next s)

/-- O5. The one fault, from a step: a gap of the first table, a gap of the table after 0xCB, or an illegal byte; the
first is checked first. The recorded values and the state left behind are the spec's decision D13; that the state
comes inside the fault is log entry 9 (60_exceptions.md sections 1 and 3). -/
def Obligations.StepRaisesTheFault : Prop :=
  ∀ (s : State), s.running = true →
    let pc := s.regs.pc
    let op := busRead s pc
    let op2 := busRead s (pc + 1)
    (op ∈ s.cfg.gapsBase ∨ op ∈ illegalOpcodes →
      step s = .fault (.unimplementedOpcode .base op pc
        { s with regs := { s.regs with pc := pc + 1 }, running := false })) ∧
    (op ∉ s.cfg.gapsBase → op = 0xCB → op2 ∈ s.cfg.gapsCb →
      step s = .fault (.unimplementedOpcode .cb op2 pc
        { s with regs := { s.regs with pc := pc + 2 }, running := false }))

/-- O6. There is no other fault: every step whose bytes have a routine completes (60_exceptions.md section 1). -/
def Obligations.StepCompletes : Prop :=
  ∀ (s : State),
    busRead s s.regs.pc ∉ s.cfg.gapsBase → busRead s s.regs.pc ∉ illegalOpcodes →
    (busRead s s.regs.pc = 0xCB → busRead s (s.regs.pc + 1) ∉ s.cfg.gapsCb) →
    ∃ t, step s = .next t

/-- O7. The prefix as an entry of the first table: with a routine for `op2` it completes as the instruction of the
bytes 0xCB, `op2`, and without one it raises the fault, pc being two past the prefix. The state left behind is decision
D13 (46_misc_control.md; 30_encoding.md section 5). -/
def Obligations.PrefixRunsSecondTable : Prop :=
  ∀ (s : State) (op2 : Byte),
    (∀ rest, decode (0xCB :: op2 :: rest) = .ok (decodeCb op2, rest)) ∧
    (op2 ∉ s.cfg.gapsCb → ∃ t, exec (.prefixCb op2) s = .next t ∧ exec (decodeCb op2) s = .next t) ∧
    (op2 ∈ s.cfg.gapsCb →
      exec (.prefixCb op2) s =
        .fault (.unimplementedOpcode .cb op2 (s.regs.pc - 2) { s with running := false }))

/-- O8. The eleven illegal bytes (R496): each decodes, alone, to itself, and always raises the fault, with pc one past
the byte, `cycles` unchanged and `running` false. What the fault records and that nothing else changes is the spec's
decision D13; that the meaning computes the recorded address back from pc is log entry 5, and that the state comes
inside the fault is log entry 9. -/
def Obligations.IllegalBytesFault : Prop :=
  ∀ (s : State), ∀ op ∈ ([0xD3, 0xDB, 0xDD, 0xE3, 0xE4, 0xEB, 0xEC, 0xED, 0xF4, 0xFC, 0xFD] : List Byte),
    (∀ rest, decode (op :: rest) = .ok (.illegal op, rest)) ∧
    exec (.illegal op) s =
      .fault (.unimplementedOpcode .base op (s.regs.pc - 1) { s with running := false })

/-! ### The bus and the I/O block -/

/-- O9. The partition of the address space: where each range reads and writes, by the offset into it (R106, R108, R109,
R110). The offsets of Video RAM and cartridge RAM are the spec's derivation from "direct index", and that the second
ROM window shows the bytes from 0x4000 is its decision D25 (20_memory.md section 1). -/
def Obligations.BusRanges : Prop :=
  ∀ (s : State) (k : Nat) (v : Byte),
    (k < 0x8000 →
      busRead s (.ofNat 16 k) = (if k < s.cart.romLen then s.cart.rom.read k else 0xFF) ∧
      busWrite s (.ofNat 16 k) v = s) ∧
    (k < 0x2000 →
      busRead s (.ofNat 16 (0x8000 + k)) = s.vram.read k ∧
      busWrite s (.ofNat 16 (0x8000 + k)) v = { s with vram := s.vram.write k v }) ∧
    (k < 0x2000 →
      busRead s (.ofNat 16 (0xA000 + k)) = (if k < s.cart.cramLen then s.cram.read k else 0xFF) ∧
      busWrite s (.ofNat 16 (0xA000 + k)) v =
        (if k < s.cart.cramLen then { s with cram := s.cram.write k v } else s)) ∧
    (k < 0x2000 →
      busRead s (.ofNat 16 (0xC000 + k)) = s.wram.read k ∧
      busWrite s (.ofNat 16 (0xC000 + k)) v = { s with wram := s.wram.write k v }) ∧
    (k < 0x1E00 →
      busRead s (.ofNat 16 (0xE000 + k)) = s.wram.read k ∧
      busWrite s (.ofNat 16 (0xE000 + k)) v = { s with wram := s.wram.write k v }) ∧
    (k < 160 →
      busRead s (.ofNat 16 (0xFE00 + k)) = s.oam.read k ∧
      busWrite s (.ofNat 16 (0xFE00 + k)) v = { s with oam := s.oam.write k v }) ∧
    (k < 96 →
      busRead s (.ofNat 16 (0xFEA0 + k)) = 0x00 ∧ busWrite s (.ofNat 16 (0xFEA0 + k)) v = s) ∧
    (k < 128 →
      busRead s (.ofNat 16 (0xFF00 + k)) = ioRead s (.ofNat 16 (0xFF00 + k)) ∧
      busWrite s (.ofNat 16 (0xFF00 + k)) v = ioWrite s (.ofNat 16 (0xFF00 + k)) v) ∧
    (k < 127 →
      busRead s (.ofNat 16 (0xFF80 + k)) = s.hram.read k ∧
      busWrite s (.ofNat 16 (0xFF80 + k)) v = { s with hram := s.hram.write k v }) ∧
    busRead s 0xFFFF = s.ie ∧ busWrite s 0xFFFF v = { s with ie := v }

/-- O10. What an address reads as after a write to it, for every address and byte: the written byte where the range
stores it, the masked byte of the I/O registers, the unchanged byte where the write is ignored (20_memory.md). -/
def Obligations.ReadAfterWrite : Prop :=
  ∀ (s : State) (a : Word) (v : Byte), busRead (busWrite s a v) a = readBack s a v

/-- O11. A write changes no other address, but for an echo of its cell, OAM after a write to `DMA`, and `IF` after a
write to `SC` with bit 7 set (20_memory.md section 4). -/
def Obligations.WriteTouchesOnly : Prop :=
  ∀ (s : State) (a b : Word) (v : Byte), ¬ Touches s.cfg a v b → busRead (busWrite s a v) b = busRead s b

/-- O12. A write leaves the registers, the bookkeeping, the cartridge's ROM and lengths and the parameters alone (that
these are a field of the state is log entry 1), and the sink unless it starts a serial transfer. That the sink is a list
of bytes is decision D19, log entry 15 (20_memory.md, sections 1, 4 and 7). -/
def Obligations.WriteKeepsTheRest : Prop :=
  ∀ (s : State) (a : Word) (v : Byte),
    let t := busWrite s a v
    t.regs = s.regs ∧ t.ime = s.ime ∧ t.running = s.running ∧ t.cycles = s.cycles ∧ t.cart = s.cart ∧
    t.cfg = s.cfg ∧
    t.serialOut =
      if region a = .io ∧ s.cfg.ioAt a = some .sc ∧ v.getLsbD 7 = true then s.serialOut ++ [s.io.sb]
      else s.serialOut

/-- O13. The echo of Work RAM (R107): for every valid offset, both ranges read alike in every state, and a write through
either is read back through the other. No echo address reaches the cells 0x1E00 to 0x1FFF. -/
def Obligations.EchoRoundTrip : Prop :=
  ∀ (s : State) (v : Byte),
    (∀ k, k ≤ 0x1DFF →
      busRead s (.ofNat 16 (0xE000 + k)) = busRead s (.ofNat 16 (0xC000 + k)) ∧
      busWrite s (.ofNat 16 (0xE000 + k)) v = busWrite s (.ofNat 16 (0xC000 + k)) v ∧
      busRead (busWrite s (.ofNat 16 (0xE000 + k)) v) (.ofNat 16 (0xC000 + k)) = v ∧
      busRead (busWrite s (.ofNat 16 (0xC000 + k)) v) (.ofNat 16 (0xE000 + k)) = v) ∧
    (∀ a, region a = .echo → busRead s a = s.wram.read (a.toNat - 0xE000) ∧ a.toNat - 0xE000 ≤ 0x1DFF)

/-- O14. Reads of the I/O block (R126 to R129): the stored value, with the top three bits of `IF` and the top bit of
`STAT` forced. Unmapped addresses: constant on read, ignored on write, and with the default `IOMAP` (log entry 6) they
are the 84 addresses of R129. -/
def Obligations.IoReadMasks : Prop :=
  (∀ (s : State) (a : Word) (r : IoReg), region a = .io → s.cfg.ioAt a = some r →
    (r = .iflag → busRead s a = s.io.iflag ||| 0xE0) ∧
    (r = .stat → busRead s a = s.io.stat ||| 0x80) ∧
    (r ≠ .iflag → r ≠ .stat → busRead s a = s.io.get r)) ∧
  (∀ (s : State) (a : Word) (v : Byte), region a = .io → s.cfg.ioAt a = none →
    busRead s a = 0xFF ∧ busWrite s a v = s) ∧
  (∀ k : Fin 128,
    Config.default.ioAt (.ofNat 16 (0xFF00 + k.val)) = none ↔
      k.val = 0x03 ∨ (0x08 ≤ k.val ∧ k.val ≤ 0x0E) ∨ (0x27 ≤ k.val ∧ k.val ≤ 0x3F) ∨
      (0x4C ≤ k.val ∧ k.val ≤ 0x4F) ∨ 0x51 ≤ k.val)

/-- O15. Writes to the I/O block (R130, R131, R133 to R140): the stored value each register takes (`LY` keeps its own),
no other register changed but `IF` by a serial transfer, and nothing outside the block changed but OAM by `DMA` and the
sink by a serial transfer. That a write to `BOOT` has no effect but to be stored is decision D28. -/
def Obligations.IoWriteMasks : Prop :=
  ∀ (s : State) (a : Word) (r : IoReg) (v : Byte), region a = .io → s.cfg.ioAt a = some r →
    let t := busWrite s a v
    t.io.get r = storedAfter s.io r v ∧
    (∀ q, q ≠ r → ¬ (r = .sc ∧ v.getLsbD 7 = true ∧ q = .iflag) → t.io.get q = s.io.get q) ∧
    (r ≠ .dma → t.oam = s.oam) ∧
    (¬ (r = .sc ∧ v.getLsbD 7 = true) → t.serialOut = s.serialOut) ∧
    t.vram = s.vram ∧ t.wram = s.wram ∧ t.hram = s.hram ∧ t.cram = s.cram ∧ t.ie = s.ie ∧
    t.regs = s.regs ∧ t.ime = s.ime ∧ t.running = s.running ∧ t.cycles = s.cycles ∧ t.cart = s.cart ∧ t.cfg = s.cfg

/-- O16. The serial port (R132): bit 7 of the byte written to `SC` emits the stored `SB`, sets bit 3 of `IF` and is
cleared in `SC`; without it the byte is stored and nothing else happens. That the sink is a list of bytes is decision
D19. -/
def Obligations.SerialTransfer : Prop :=
  ∀ (s : State) (a : Word) (v : Byte), region a = .io → s.cfg.ioAt a = some .sc →
    let t := busWrite s a v
    (v.getLsbD 7 = true →
      t = { s with io := { s.io with sc := v &&& 0x7F, iflag := s.io.iflag ||| 0x08 },
                   serialOut := s.serialOut ++ [s.io.sb] }) ∧
    (v.getLsbD 7 = false → t = { s with io := { s.io with sc := v } }) ∧
    t.io.sc = v &&& 0x7F

/-- O17. The OAM DMA (R142): a write to `DMA` stores the byte and copies the 160 bus-read bytes from its page into OAM,
all within the write; no address outside OAM reads otherwise than after the store. The ascending order is decision D18;
no other order gives another result, so none is stated. -/
def Obligations.DmaCopiesPage : Prop :=
  ∀ (s : State) (a : Word) (v : Byte), region a = .io → s.cfg.ioAt a = some .dma →
    let s' : State := { s with io := { s.io with dma := v } }
    let t := busWrite s a v
    t.io = s'.io ∧
    (∀ i, i < 160 → busRead t (.ofNat 16 (0xFE00 + i)) = busRead s' (.ofNat 16 (v.toNat * 256 + i))) ∧
    (∀ b, region b ≠ .oam → busRead t b = busRead s' b) ∧
    t = { s' with oam := t.oam }

/-! ### Registers -/

/-- O18. Pairs are views (R45): the high register is bits 15 to 8, reading after writing gives the word back, and a
write changes no other pair. -/
def Obligations.PairsAreViews : Prop :=
  ∀ (s : State) (w : Word) (hi lo : Byte),
    (∀ p q : Reg16, (s.set16 p w).get16 q = if q = p then w else s.get16 q) ∧
    (s.set16 .bc w).get8 .b = w.extractLsb' 8 8 ∧ (s.set16 .bc w).get8 .c = w.extractLsb' 0 8 ∧
    (s.set16 .de w).get8 .d = w.extractLsb' 8 8 ∧ (s.set16 .de w).get8 .e = w.extractLsb' 0 8 ∧
    (s.set16 .hl w).get8 .h = w.extractLsb' 8 8 ∧ (s.set16 .hl w).get8 .l = w.extractLsb' 0 8 ∧
    ((s.set8 .b hi).set8 .c lo).get16 .bc = hi ++ lo ∧
    ((s.set8 .d hi).set8 .e lo).get16 .de = hi ++ lo ∧
    ((s.set8 .h hi).set8 .l lo).get16 .hl = hi ++ lo

/-- O19. The flags byte: a write stores the high nibble only, and the four flags are bits 7, 6, 5 and 4. The bit
positions are decision D4 (10_state.md, sections 2 and 4). -/
def Obligations.FlagByte : Prop :=
  ∀ (s : State) (v : Byte) (z n h c : Bool),
    (s.setF v).regs.f = v &&& 0xF0 ∧
    HasFlags (s.setF v) (v.getLsbD 7) (v.getLsbD 6) (v.getLsbD 5) (v.getLsbD 4) ∧
    HasFlags (s.setFlags { z := z, n := n, h := h, c := c }) z n h c ∧
    (s.setFlags { z := z, n := n, h := h, c := c }).regs.f =
      .ofNat 8 (z.toNat * 0x80 + n.toNat * 0x40 + h.toNat * 0x20 + c.toNat * 0x10)

/-! ### 8-bit loads -/

/-- O20. `LD r,r'` and `LD r,n` (R250, R251). -/
def Obligations.LoadFromRegisterOrByte : Prop :=
  ∀ (s : State) (dst r : Reg8) (n : Byte),
    Row (.ldRR dst r) [.ofNat 8 (0x40 + 8 * dst.code + r.code)] 1 ∧ Loads (.ldRR dst r) s dst (s.get8 r) ∧
    Row (.ldRN dst n) [.ofNat 8 (0x06 + 8 * dst.code), n] 2 ∧ Loads (.ldRN dst n) s dst n

/-- O21. The loads from memory (R252, R255, R256, R259, R261, R263): the byte the bus reads at the address. -/
def Obligations.LoadFromMemory : Prop :=
  ∀ (s : State) (dst : Reg8) (n : Byte) (nn : Word),
    Row (.ldRHl dst) [.ofNat 8 (0x46 + 8 * dst.code)] 2 ∧ Loads (.ldRHl dst) s dst (busRead s (s.get16 .hl)) ∧
    Row .ldABc [0x0A] 2 ∧ Loads .ldABc s .a (busRead s (s.get16 .bc)) ∧
    Row .ldADe [0x1A] 2 ∧ Loads .ldADe s .a (busRead s (s.get16 .de)) ∧
    Row (.ldANn nn) [0xFA, lo8 nn, hi8 nn] 4 ∧ Loads (.ldANn nn) s .a (busRead s nn) ∧
    Row .ldhAC [0xF2] 2 ∧ Loads .ldhAC s .a (busRead s (.ofNat 16 (0xFF00 + (s.get8 .c).toNat))) ∧
    Row (.ldhAN n) [0xF0, n] 3 ∧ Loads (.ldhAN n) s .a (busRead s (.ofNat 16 (0xFF00 + n.toNat)))

/-- O22. The stores (R253, R254, R257, R258, R260, R262, R264): one bus write at the address, nothing else. -/
def Obligations.StoreToMemory : Prop :=
  ∀ (s : State) (r : Reg8) (n : Byte) (nn : Word),
    Row (.ldHlR r) [.ofNat 8 (0x70 + r.code)] 2 ∧ Stores (.ldHlR r) s (s.get16 .hl) (s.get8 r) ∧
    Row (.ldHlN n) [0x36, n] 3 ∧ Stores (.ldHlN n) s (s.get16 .hl) n ∧
    Row .ldBcA [0x02] 2 ∧ Stores .ldBcA s (s.get16 .bc) (s.get8 .a) ∧
    Row .ldDeA [0x12] 2 ∧ Stores .ldDeA s (s.get16 .de) (s.get8 .a) ∧
    Row (.ldNnA nn) [0xEA, lo8 nn, hi8 nn] 4 ∧ Stores (.ldNnA nn) s nn (s.get8 .a) ∧
    Row .ldhCA [0xE2] 2 ∧ Stores .ldhCA s (.ofNat 16 (0xFF00 + (s.get8 .c).toNat)) (s.get8 .a) ∧
    Row (.ldhNA n) [0xE0, n] 3 ∧ Stores (.ldhNA n) s (.ofNat 16 (0xFF00 + n.toNat)) (s.get8 .a)

/-- O23. The loads with post-increment and post-decrement (R265 to R268): the access uses the old HL, then HL moves by
one; BC, DE, SP, pc and the flags are unchanged. -/
def Obligations.LoadAndStepHl : Prop :=
  ∀ (s : State),
    let hl := s.get16 .hl
    let v := busRead s hl
    let Rest : State → Prop := fun t =>
      t.get16 .bc = s.get16 .bc ∧ t.get16 .de = s.get16 .de ∧ t.regs.sp = s.regs.sp ∧ t.regs.pc = s.regs.pc ∧
      t.regs.f = s.regs.f
    Row .ldAHlDec [0x3A] 2 ∧
    (∃ t, exec .ldAHlDec s = .next t ∧ t.get8 .a = v ∧ t.get16 .hl = hl - 1 ∧ Rest t ∧ SameOutsideRegs s t ∧
      CostsBase .ldAHlDec s t) ∧
    Row .ldAHlInc [0x2A] 2 ∧
    (∃ t, exec .ldAHlInc s = .next t ∧ t.get8 .a = v ∧ t.get16 .hl = hl + 1 ∧ Rest t ∧ SameOutsideRegs s t ∧
      CostsBase .ldAHlInc s t) ∧
    Row .ldHlDecA [0x32] 2 ∧
    (∃ t, exec .ldHlDecA s = .next t ∧ StoresByte hl (s.get8 .a) s t ∧ t.get8 .a = s.get8 .a ∧
      t.get16 .hl = hl - 1 ∧ Rest t ∧ CostsBase .ldHlDecA s t) ∧
    Row .ldHlIncA [0x22] 2 ∧
    (∃ t, exec .ldHlIncA s = .next t ∧ StoresByte hl (s.get8 .a) s t ∧ t.get8 .a = s.get8 .a ∧
      t.get16 .hl = hl + 1 ∧ Rest t ∧ CostsBase .ldHlIncA s t)

/-! ### 16-bit loads and the stack -/

/-- O24. `LD rr,nn`, `LD SP,HL`, `INC rr`, `DEC rr` (R300, R302, R381, R382): no flag changes. -/
def Obligations.LoadAndCount16 : Prop :=
  ∀ (s : State) (p : Reg16) (nn : Word),
    Row (.ldRrNn p nn) [.ofNat 8 (0x01 + 16 * p.code), lo8 nn, hi8 nn] 3 ∧ Loads16 (.ldRrNn p nn) s p nn ∧
    Row .ldSpHl [0xF9] 2 ∧ Loads16 .ldSpHl s .sp (s.get16 .hl) ∧
    Row (.incRr p) [.ofNat 8 (0x03 + 16 * p.code)] 2 ∧ Loads16 (.incRr p) s p (s.get16 p + 1) ∧
    Row (.decRr p) [.ofNat 8 (0x0B + 16 * p.code)] 2 ∧ Loads16 (.decRr p) s p (s.get16 p - 1)

/-- O25. `LD (nn),SP` (R301): the low byte of SP at nn, then the high byte at nn + 1. -/
def Obligations.StoreSp : Prop :=
  ∀ (s : State) (nn : Word),
    Row (.ldNnSp nn) [0x08, lo8 nn, hi8 nn] 5 ∧
    ∃ t, exec (.ldNnSp nn) s = .next t ∧ StoresTwo nn (lo8 s.regs.sp) (nn + 1) (hi8 s.regs.sp) s t ∧
      SameRegs s t ∧ t.regs.f = s.regs.f ∧ CostsBase (.ldNnSp nn) s t

/-- O26. `PUSH rr` and `PUSH AF` (R304, R307, with Push16 of R305): the high byte at SP - 1, then the low byte at
SP - 2. -/
def Obligations.PushWord : Prop :=
  ∀ (s : State) (p : StackPair),
    Row (.pushRr p) [.ofNat 8 (0xC5 + 16 * p.code)] 4 ∧
    (∃ t, exec (.pushRr p) s = .next t ∧ Pushes (s.get16 p.pair) s t ∧ t.regs.pc = s.regs.pc ∧
      CostsBase (.pushRr p) s t) ∧
    Row .pushAf [0xF5] 4 ∧
    (∃ t, exec .pushAf s = .next t ∧ Pushes (s.regs.a ++ s.regs.f) s t ∧ t.regs.pc = s.regs.pc ∧
      CostsBase .pushAf s t)

/-- O27. `POP rr` and `POP AF` (R308, R309, with Pop16 of R306): the low byte from SP, the high byte from SP + 1, SP two
higher; `POP AF` drops the low nibble of F. -/
def Obligations.PopWord : Prop :=
  ∀ (s : State) (p : StackPair),
    Row (.popRr p) [.ofNat 8 (0xC1 + 16 * p.code)] 3 ∧
    (∃ t, exec (.popRr p) s = .next t ∧ t.get16 p.pair = stackTop s ∧
      (∀ q, q ≠ p.pair → q ≠ .sp → t.get16 q = s.get16 q) ∧ t.regs.sp = s.regs.sp + 2 ∧ t.get8 .a = s.get8 .a ∧
      t.regs.f = s.regs.f ∧ t.regs.pc = s.regs.pc ∧ SameOutsideRegs s t ∧ CostsBase (.popRr p) s t) ∧
    Row .popAf [0xF1] 3 ∧
    (∃ t, exec .popAf s = .next t ∧ t.regs.a = busRead s (s.regs.sp + 1) ∧
      t.regs.f = busRead s s.regs.sp &&& 0xF0 ∧ t.regs.sp = s.regs.sp + 2 ∧
      (∀ r, r ≠ .a → t.get8 r = s.get8 r) ∧ t.regs.pc = s.regs.pc ∧ SameOutsideRegs s t ∧ CostsBase .popAf s t)

/-- O28. `PUSH AF` then `POP AF` restores A and F exactly, and SP, on a stack in plain RAM (41_load16_stack.md, PUSH and
POP). -/
def Obligations.PushPopRestoresAf : Prop :=
  ∀ (s : State), s.regs.f &&& 0x0F = 0 →
    region (s.regs.sp - 1) ∈ ([.vram, .wram, .echo, .oam, .hram] : List Region) →
    region (s.regs.sp - 2) ∈ ([.vram, .wram, .echo, .oam, .hram] : List Region) →
    ∃ t u, exec .pushAf s = .next t ∧ exec .popAf t = .next u ∧ u.regs = s.regs

/-! ### 8-bit arithmetic and logic -/

/-- O29. `ADD` and `ADC` (R334 to R339), with Add8 of 42_alu8.md section 1. That the carry-in of `ADC` enters both the
half-carry and the carry is decision D9. -/
def Obligations.AddToA : Prop :=
  ∀ (s : State) (r : Reg8) (n : Byte),
    let hl := busRead s (s.get16 .hl)
    let cy := s.flags.c.toNat
    Row (.addAR r) [.ofNat 8 (0x80 + r.code)] 1 ∧ AddsToA (.addAR r) s (s.get8 r) 0 ∧
    Row .addAHl [0x86] 2 ∧ AddsToA .addAHl s hl 0 ∧
    Row (.addAN n) [0xC6, n] 2 ∧ AddsToA (.addAN n) s n 0 ∧
    Row (.adcAR r) [.ofNat 8 (0x88 + r.code)] 1 ∧ AddsToA (.adcAR r) s (s.get8 r) cy ∧
    Row .adcAHl [0x8E] 2 ∧ AddsToA .adcAHl s hl cy ∧
    Row (.adcAN n) [0xCE, n] 2 ∧ AddsToA (.adcAN n) s n cy

/-- O30. `SUB` and `SBC` (R340 to R345), with Sub8 of 42_alu8.md section 1. That the borrow-in of `SBC` enters both the
half-borrow and the borrow is decision D9. -/
def Obligations.SubtractFromA : Prop :=
  ∀ (s : State) (r : Reg8) (n : Byte),
    let hl := busRead s (s.get16 .hl)
    let cy := s.flags.c.toNat
    Row (.subR r) [.ofNat 8 (0x90 + r.code)] 1 ∧ SubtractsFromA (.subR r) s (s.get8 r) 0 ∧
    Row .subHl [0x96] 2 ∧ SubtractsFromA .subHl s hl 0 ∧
    Row (.subN n) [0xD6, n] 2 ∧ SubtractsFromA (.subN n) s n 0 ∧
    Row (.sbcAR r) [.ofNat 8 (0x98 + r.code)] 1 ∧ SubtractsFromA (.sbcAR r) s (s.get8 r) cy ∧
    Row .sbcAHl [0x9E] 2 ∧ SubtractsFromA .sbcAHl s hl cy ∧
    Row (.sbcAN n) [0xDE, n] 2 ∧ SubtractsFromA (.sbcAN n) s n cy

/-- O31. `CP` (R355 to R357): the flags of the subtraction, A not written. -/
def Obligations.CompareA : Prop :=
  ∀ (s : State) (r : Reg8) (n : Byte),
    Row (.cpR r) [.ofNat 8 (0xB8 + r.code)] 1 ∧ ComparesA (.cpR r) s (s.get8 r) ∧
    Row .cpHl [0xBE] 2 ∧ ComparesA .cpHl s (busRead s (s.get16 .hl)) ∧
    Row (.cpN n) [0xFE, n] 2 ∧ ComparesA (.cpN n) s n

/-- O32. `AND`, `XOR`, `OR` (R346 to R354, with the flags of R332). -/
def Obligations.LogicOnA : Prop :=
  ∀ (s : State) (r : Reg8) (n : Byte),
    let a := s.get8 .a
    let v := s.get8 r
    let hl := busRead s (s.get16 .hl)
    let To : Instr → Byte → Bool → Prop := fun i res h => Sets i s .a res (decide (res = 0)) false h false
    Row (.andR r) [.ofNat 8 (0xA0 + r.code)] 1 ∧ To (.andR r) (a &&& v) true ∧
    Row .andHl [0xA6] 2 ∧ To .andHl (a &&& hl) true ∧
    Row (.andN n) [0xE6, n] 2 ∧ To (.andN n) (a &&& n) true ∧
    Row (.xorR r) [.ofNat 8 (0xA8 + r.code)] 1 ∧ To (.xorR r) (a ^^^ v) false ∧
    Row .xorHl [0xAE] 2 ∧ To .xorHl (a ^^^ hl) false ∧
    Row (.xorN n) [0xEE, n] 2 ∧ To (.xorN n) (a ^^^ n) false ∧
    Row (.orR r) [.ofNat 8 (0xB0 + r.code)] 1 ∧ To (.orR r) (a ||| v) false ∧
    Row .orHl [0xB6] 2 ∧ To .orHl (a ||| hl) false ∧
    Row (.orN n) [0xF6, n] 2 ∧ To (.orN n) (a ||| n) false

/-- O33. `INC r` and `DEC r` (R358, R360): the carry is kept. -/
def Obligations.IncDecRegister : Prop :=
  ∀ (s : State) (r : Reg8),
    let v := (s.get8 r).toNat
    Row (.incR r) [.ofNat 8 (0x04 + 8 * r.code)] 1 ∧
    Sets (.incR r) s r (.ofNat 8 (v + 1)) (decide (v = 0xFF)) false (decide (v % 16 + 1 > 0x0F)) s.flags.c ∧
    Row (.decR r) [.ofNat 8 (0x05 + 8 * r.code)] 1 ∧
    Sets (.decR r) s r (.ofNat 8 (v + 0xFF)) (decide (v = 0x01)) true (decide (v % 16 < 1)) s.flags.c

/-- O34. `INC (HL)` and `DEC (HL)` (R359, R361): a read and a bus write, the flags from the computed byte. -/
def Obligations.IncDecMemory : Prop :=
  ∀ (s : State),
    let v := (busRead s (s.get16 .hl)).toNat
    Row .incHl [0x34] 3 ∧
    StoresAtHl .incHl s (.ofNat 8 (v + 1)) (decide (v = 0xFF)) false (decide (v % 16 + 1 > 0x0F)) s.flags.c ∧
    Row .decHl [0x35] 3 ∧
    StoresAtHl .decHl s (.ofNat 8 (v + 0xFF)) (decide (v = 0x01)) true (decide (v % 16 < 1)) s.flags.c

/-- O35. `DAA` (R362), for every A and every flags. -/
def Obligations.DecimalAdjust : Prop :=
  ∀ (s : State),
    let a := (s.get8 .a).toNat
    let hc := s.flags.h = true ∨ a % 16 > 0x09
    let cc := s.flags.c = true ∨ a > 0x99
    Row .daa [0x27] 1 ∧
    (s.flags.n = false → ¬ hc → ¬ cc → Sets .daa s .a (.ofNat 8 a) (decide (a = 0)) false false false) ∧
    (s.flags.n = false → hc → ¬ cc →
      Sets .daa s .a (.ofNat 8 (a + 0x06)) (decide ((a + 0x06) % 256 = 0)) false false false) ∧
    (s.flags.n = false → ¬ hc → cc →
      Sets .daa s .a (.ofNat 8 (a + 0x60)) (decide ((a + 0x60) % 256 = 0)) false false true) ∧
    (s.flags.n = false → hc → cc →
      Sets .daa s .a (.ofNat 8 (a + 0x66)) (decide ((a + 0x66) % 256 = 0)) false false true) ∧
    (s.flags.n = true →
      let adj := (if s.flags.h then 0x06 else 0x00) + (if s.flags.c then 0x60 else 0x00)
      Sets .daa s .a (.ofNat 8 (256 + a - adj)) (decide ((256 + a - adj) % 256 = 0)) true false s.flags.c)

/-- O36. `DAA` after an addition or a subtraction of two-digit decimal numbers gives the decimal sum or difference, with
the decimal carry or borrow in C (42_alu8.md section 9: "decimal-adjust A after a BCD addition or subtraction"). -/
def Obligations.DecimalArithmetic : Prop :=
  ∀ (s : State) (x y : Fin 100),
    let bcd : Nat → Byte := fun k => .ofNat 8 (k / 10 * 16 + k % 10)
    s.get8 .a = bcd x.val →
    (∃ t u, exec (.addAN (bcd y.val)) s = .next t ∧ exec .daa t = .next u ∧
      u.get8 .a = bcd ((x.val + y.val) % 100) ∧ u.flags.c = decide (x.val + y.val ≥ 100)) ∧
    (∃ t u, exec (.subN (bcd y.val)) s = .next t ∧ exec .daa t = .next u ∧
      u.get8 .a = bcd ((100 + x.val - y.val) % 100) ∧ u.flags.c = decide (x.val < y.val))

/-- O37. `CPL`, `SCF`, `CCF` (R363 to R365): Z is kept, and by CPL the carry too. -/
def Obligations.ComplementAndCarry : Prop :=
  ∀ (s : State),
    Row .cpl [0x2F] 1 ∧ Sets .cpl s .a (.ofNat 8 (255 - (s.get8 .a).toNat)) s.flags.z true true s.flags.c ∧
    Row .scf [0x37] 1 ∧ SetsFlags .scf s s.flags.z false false true ∧
    Row .ccf [0x3F] 1 ∧ SetsFlags .ccf s s.flags.z false false (!s.flags.c)

/-! ### 16-bit arithmetic -/

/-- O38. `ADD HL,rr` (R380): Z is kept, H is the carry out of bit 11. -/
def Obligations.AddToHl : Prop :=
  ∀ (s : State) (p : Reg16),
    let a := (s.get16 .hl).toNat
    let b := (s.get16 p).toNat
    Row (.addHlRr p) [.ofNat 8 (0x09 + 16 * p.code)] 2 ∧
    Sets16 (.addHlRr p) s .hl (.ofNat 16 (a + b)) s.flags.z false
      (decide (a % 0x1000 + b % 0x1000 > 0x0FFF)) (decide (a + b > 0xFFFF))

/-- O39. `ADD SP,e` and `LD HL,SP+e` (R384, R385, with AddSPe of R383): `e` signed in the sum and unsigned in the two
carries. -/
def Obligations.AddDisplacementToSp : Prop :=
  ∀ (s : State) (e : Byte),
    let sp := s.regs.sp.toNat
    let sum : Word := .ofNat 16 (if e.toNat < 0x80 then sp + e.toNat else sp + 0xFF00 + e.toNat)
    let h := decide (sp % 16 + e.toNat % 16 > 0x0F)
    let c := decide (sp % 256 + e.toNat > 0xFF)
    Row (.addSpE e) [0xE8, e] 4 ∧ Sets16 (.addSpE e) s .sp sum false false h c ∧
    Row (.ldHlSpE e) [0xF8, e] 3 ∧ Sets16 (.ldHlSpE e) s .hl sum false false h c

/-! ### Rotates, shifts and bits -/

/-- O40. `RLCA`, `RRCA`, `RLA`, `RRA` (R401 to R404): Z is 0 whatever the result. -/
def Obligations.RotateA : Prop :=
  ∀ (s : State),
    let v := (s.get8 .a).toNat
    let cy := s.flags.c.toNat
    Row .rlca [0x07] 1 ∧ Sets .rlca s .a (.ofNat 8 (v * 2 % 256 + v / 128)) false false false (decide (v ≥ 128)) ∧
    Row .rrca [0x0F] 1 ∧ Sets .rrca s .a (.ofNat 8 (v / 2 + v % 2 * 128)) false false false (decide (v % 2 = 1)) ∧
    Row .rla [0x17] 1 ∧ Sets .rla s .a (.ofNat 8 (v * 2 % 256 + cy)) false false false (decide (v ≥ 128)) ∧
    Row .rra [0x1F] 1 ∧ Sets .rra s .a (.ofNat 8 (v / 2 + cy * 128)) false false false (decide (v % 2 = 1))

/-- O41. The prefixed rotates, shifts and SWAP of a register (R405, R407, R409, R411, R413, R415, R417, R419, with the
operations of R400). -/
def Obligations.ShiftRegister : Prop :=
  ∀ (s : State) (r : Reg8),
    let v := (s.get8 r).toNat
    let cy := s.flags.c.toNat
    Row (.rlcR r) [0xCB, .ofNat 8 (0x00 + r.code)] 2 ∧
    ShiftsReg (.rlcR r) s r (v * 2 % 256 + v / 128) (decide (v ≥ 128)) ∧
    Row (.rrcR r) [0xCB, .ofNat 8 (0x08 + r.code)] 2 ∧
    ShiftsReg (.rrcR r) s r (v / 2 + v % 2 * 128) (decide (v % 2 = 1)) ∧
    Row (.rlR r) [0xCB, .ofNat 8 (0x10 + r.code)] 2 ∧
    ShiftsReg (.rlR r) s r (v * 2 % 256 + cy) (decide (v ≥ 128)) ∧
    Row (.rrR r) [0xCB, .ofNat 8 (0x18 + r.code)] 2 ∧
    ShiftsReg (.rrR r) s r (v / 2 + cy * 128) (decide (v % 2 = 1)) ∧
    Row (.slaR r) [0xCB, .ofNat 8 (0x20 + r.code)] 2 ∧
    ShiftsReg (.slaR r) s r (v * 2 % 256) (decide (v ≥ 128)) ∧
    Row (.sraR r) [0xCB, .ofNat 8 (0x28 + r.code)] 2 ∧
    ShiftsReg (.sraR r) s r (v / 2 + v / 128 * 128) (decide (v % 2 = 1)) ∧
    Row (.swapR r) [0xCB, .ofNat 8 (0x30 + r.code)] 2 ∧
    ShiftsReg (.swapR r) s r (v % 16 * 16 + v / 16) false ∧
    Row (.srlR r) [0xCB, .ofNat 8 (0x38 + r.code)] 2 ∧
    ShiftsReg (.srlR r) s r (v / 2) (decide (v % 2 = 1))

/-- O42. The same on the byte at HL (R406, R408, R410, R412, R414, R416, R418, R420): a read and a bus write. -/
def Obligations.ShiftMemory : Prop :=
  ∀ (s : State),
    let v := (busRead s (s.get16 .hl)).toNat
    let cy := s.flags.c.toNat
    Row .rlcHl [0xCB, 0x06] 4 ∧ ShiftsHl .rlcHl s (v * 2 % 256 + v / 128) (decide (v ≥ 128)) ∧
    Row .rrcHl [0xCB, 0x0E] 4 ∧ ShiftsHl .rrcHl s (v / 2 + v % 2 * 128) (decide (v % 2 = 1)) ∧
    Row .rlHl [0xCB, 0x16] 4 ∧ ShiftsHl .rlHl s (v * 2 % 256 + cy) (decide (v ≥ 128)) ∧
    Row .rrHl [0xCB, 0x1E] 4 ∧ ShiftsHl .rrHl s (v / 2 + cy * 128) (decide (v % 2 = 1)) ∧
    Row .slaHl [0xCB, 0x26] 4 ∧ ShiftsHl .slaHl s (v * 2 % 256) (decide (v ≥ 128)) ∧
    Row .sraHl [0xCB, 0x2E] 4 ∧ ShiftsHl .sraHl s (v / 2 + v / 128 * 128) (decide (v % 2 = 1)) ∧
    Row .swapHl [0xCB, 0x36] 4 ∧ ShiftsHl .swapHl s (v % 16 * 16 + v / 16) false ∧
    Row .srlHl [0xCB, 0x3E] 4 ∧ ShiftsHl .srlHl s (v / 2) (decide (v % 2 = 1))

/-- O43. `BIT` (R421, R422): Z is the complement of the bit, the carry is kept, the operand is not written. -/
def Obligations.TestBit : Prop :=
  ∀ (s : State) (b : Fin 8) (r : Reg8),
    Row (.bitR b r) [0xCB, .ofNat 8 (0x40 + 8 * b.val + r.code)] 2 ∧
    SetsFlags (.bitR b r) s (decide ((s.get8 r).toNat / 2 ^ b.val % 2 = 0)) false true s.flags.c ∧
    Row (.bitHl b) [0xCB, .ofNat 8 (0x46 + 8 * b.val)] 3 ∧
    SetsFlags (.bitHl b) s (decide ((busRead s (s.get16 .hl)).toNat / 2 ^ b.val % 2 = 0)) false true s.flags.c

/-- O44. `RES` and `SET` (R423 to R426): the bit alone changes, and no flag. The byte is given bit by bit. -/
def Obligations.ChangeBit : Prop :=
  ∀ (s : State) (b : Fin 8) (r : Reg8),
    let IsBit : Byte → Byte → Bool → Prop := fun w v x =>
      ∀ k, k < 8 → w.getLsbD k = if k = b.val then x else v.getLsbD k
    let v := s.get8 r
    let hl := busRead s (s.get16 .hl)
    Row (.resR b r) [0xCB, .ofNat 8 (0x80 + 8 * b.val + r.code)] 2 ∧
    (∃ w, IsBit w v false ∧ Loads (.resR b r) s r w) ∧
    Row (.setR b r) [0xCB, .ofNat 8 (0xC0 + 8 * b.val + r.code)] 2 ∧
    (∃ w, IsBit w v true ∧ Loads (.setR b r) s r w) ∧
    Row (.resHl b) [0xCB, .ofNat 8 (0x86 + 8 * b.val)] 4 ∧
    (∃ w, IsBit w hl false ∧ Stores (.resHl b) s (s.get16 .hl) w) ∧
    Row (.setHl b) [0xCB, .ofNat 8 (0xC6 + 8 * b.val)] 4 ∧
    (∃ w, IsBit w hl true ∧ Stores (.setHl b) s (s.get16 .hl) w)

/-! ### Control transfer: pc in `s` is the address after the instruction (O4) -/

/-- O45. `JP nn`, `JP cc,nn`, `JP HL` (R451 to R453). -/
def Obligations.JumpAbsolute : Prop :=
  ∀ (s : State) (cc : Cond) (nn : Word),
    Row (.jpNn nn) [0xC3, lo8 nn, hi8 nn] 4 ∧ Jumps (.jpNn nn) s nn ∧
    Row (.jpCcNn cc nn) [.ofNat 8 (0xC2 + 8 * cc.code), lo8 nn, hi8 nn] 3 ∧
    Config.default.extraCost (.jpCcNn cc nn) = 1 ∧
    (Holds cc s → JumpsTaken (.jpCcNn cc nn) s nn) ∧
    (¬ Holds cc s → Jumps (.jpCcNn cc nn) s s.regs.pc) ∧
    Row .jpHl [0xE9] 1 ∧ Jumps .jpHl s (s.get16 .hl)

/-- O46. `JR e` and `JR cc,e` (R454, R455): the displacement is signed and added to the address after the instruction,
modulo 2^16. -/
def Obligations.JumpRelative : Prop :=
  ∀ (s : State) (cc : Cond) (e : Byte),
    let target : Word := .ofInt 16 (s.regs.pc.toNat + e.toInt)
    Row (.jrE e) [0x18, e] 3 ∧ Jumps (.jrE e) s target ∧
    Row (.jrCcE cc e) [.ofNat 8 (0x20 + 8 * cc.code), e] 2 ∧
    Config.default.extraCost (.jrCcE cc e) = 1 ∧
    (Holds cc s → JumpsTaken (.jrCcE cc e) s target) ∧
    (¬ Holds cc s → Jumps (.jrCcE cc e) s s.regs.pc)

/-- O47. `CALL nn`, `CALL cc,nn`, `RST t` (R456, R457, R462): the address after the instruction is pushed. -/
def Obligations.CallSubroutine : Prop :=
  ∀ (s : State) (cc : Cond) (nn : Word) (k : Fin 8),
    Row (.callNn nn) [0xCD, lo8 nn, hi8 nn] 6 ∧
    (∃ t, exec (.callNn nn) s = .next t ∧ Pushes s.regs.pc s t ∧ t.regs.pc = nn ∧ CostsBase (.callNn nn) s t) ∧
    Row (.callCcNn cc nn) [.ofNat 8 (0xC4 + 8 * cc.code), lo8 nn, hi8 nn] 3 ∧
    Config.default.extraCost (.callCcNn cc nn) = 3 ∧
    (Holds cc s → ∃ t, exec (.callCcNn cc nn) s = .next t ∧ Pushes s.regs.pc s t ∧ t.regs.pc = nn ∧
      CostsTaken (.callCcNn cc nn) s t) ∧
    (¬ Holds cc s → Jumps (.callCcNn cc nn) s s.regs.pc) ∧
    Row (.rstT k) [.ofNat 8 (0xC7 + 8 * k.val)] 4 ∧
    (∃ t, exec (.rstT k) s = .next t ∧ Pushes s.regs.pc s t ∧ t.regs.pc = .ofNat 16 (8 * k.val) ∧
      CostsBase (.rstT k) s t)

/-- O48. `RET` and `RET cc` (R458, R459): pc is popped; not taken, nothing changes. -/
def Obligations.ReturnFromSubroutine : Prop :=
  ∀ (s : State) (cc : Cond),
    Row .ret [0xC9] 4 ∧ (∃ t, exec .ret s = .next t ∧ Returns s.ime s t ∧ CostsBase .ret s t) ∧
    Row (.retCc cc) [.ofNat 8 (0xC0 + 8 * cc.code)] 2 ∧ Config.default.extraCost (.retCc cc) = 3 ∧
    (Holds cc s → ∃ t, exec (.retCc cc) s = .next t ∧ Returns s.ime s t ∧ CostsTaken (.retCc cc) s t) ∧
    (¬ Holds cc s → Jumps (.retCc cc) s s.regs.pc)

/-! ### Miscellaneous -/

/-- O49. `NOP` (R490): nothing changes but `cycles`, and in a step pc, which moves past the one byte; the bytes of the
unusable range run as NOP. -/
def Obligations.NoOperation : Prop :=
  ∀ (s : State),
    Row .nop [0x00] 1 ∧
    exec .nop s = .next { s with cycles := s.cycles + s.cfg.baseCost .nop } ∧
    (s.running = true → busRead s s.regs.pc = 0x00 ∨ region s.regs.pc = .unusable → (0x00 : Byte) ∉ s.cfg.gapsBase →
      step s = .next { s with regs := { s.regs with pc := s.regs.pc + 1 },
                              cycles := s.cycles + s.cfg.baseCost .nop })

/-- O50. `HALT`, `STOP`, `DI`, `EI`, `RETI` with the effects the spec decides for them in D14, D15 and D16
(46_misc_control.md; 45_control_flow.md section 3). -/
def Obligations.HaltStopAndInterruptEnable : Prop :=
  ∀ (s : State) (n : Byte),
    Row .halt [0x76] 1 ∧
    exec .halt s = .next { s with running := false, cycles := s.cycles + s.cfg.baseCost .halt } ∧
    Row (.stop n) [0x10, n] 1 ∧
    exec (.stop n) s = .next { s with running := false, cycles := s.cycles + s.cfg.baseCost (.stop n) } ∧
    Row .di [0xF3] 1 ∧ exec .di s = .next { s with ime := false, cycles := s.cycles + s.cfg.baseCost .di } ∧
    Row .ei [0xFB] 1 ∧ exec .ei s = .next { s with ime := true, cycles := s.cycles + s.cfg.baseCost .ei } ∧
    Row .reti [0xD9] 4 ∧ (∃ t, exec .reti s = .next t ∧ Returns true s t ∧ CostsBase .reti s t)

/-! ### The whole machine -/

/-- O51. Creation sets the I/O block and `IE` to the exact values of R81 (the values of 10_state.md R62), whatever the
parameters and the RAM contents. -/
def Obligations.CreationIoValues : Prop :=
  ∀ (cfg : Config) (init : InitMem),
    let s := State.created cfg init
    s.io.joyp = 0xCF ∧ s.io.sc = 0x7E ∧ s.io.div = 0xAB ∧ s.io.tac = 0xF8 ∧ s.io.iflag = 0xE1 ∧ s.ie = 0x00 ∧
    s.io.lcdc = 0x91 ∧ s.io.stat = 0x85 ∧ s.io.bgp = 0xFC ∧
    (∀ r, r ∉ ([.joyp, .sc, .div, .tac, .iflag, .lcdc, .stat, .bgp] : List IoReg) → s.io.get r = 0x00)

/-- O52. Creation and loading: at creation the register file is `RESET_REGS`, the console is not running and no cartridge
answers; a failed load clears `running` only; a successful one resets the register file and `ime`, installs the
cartridge and runs, so that the next step fetches at the entry point; nothing else changes. The values of `RESET_REGS`
(log entry 3) are a parameter here; `ime`, `cycles` and the sink at creation are decision D7, what a load keeps is D27
(70_reset_and_hazards.md sections 1 and 2). -/
def Obligations.CreationAndLoad : Prop :=
  (∀ (cfg : Config) (init : InitMem),
    let s := State.created cfg init
    s.regs = cfg.resetRegs ∧ s.running = false ∧ s.ime = false ∧ s.cycles = 0 ∧ s.serialOut = [] ∧
    (∀ a, region a ∈ ([.romFixed, .romSwitch, .cram] : List Region) →
      busRead s a = 0xFF ∧ ∀ v, busWrite s a v = s)) ∧
  (∀ (s : State), loadCartridge none s = (false, { s with running := false })) ∧
  (∀ (s : State) (im : CartridgeImage),
    let t := (loadCartridge (some im) s).2
    (loadCartridge (some im) s).1 = true ∧
    t = { s with regs := s.cfg.resetRegs, ime := false, running := true, cart := im.cart, cram := im.cram } ∧
    (s.cfg.resetRegs.pc.toNat < 0x8000 → s.cfg.resetRegs.pc.toNat < im.cart.romLen →
      busRead t t.regs.pc = im.cart.rom.read s.cfg.resetRegs.pc.toNat))

/-- O53. Every step keeps the invariant, in a next state and in the state a fault leaves (10_state.md sections 2, 5 and
6): the low nibble of F is 0, every memory is canonical and within its region, and no bit of the I/O block changes that
no bus write can change. -/
def Obligations.StepKeepsInv : Prop :=
  ∀ (s : State), s.Inv →
    (∀ t, step s = .next t → t.Inv) ∧
    (∀ table op addr t, step s = .fault (.unimplementedOpcode table op addr t) → t.Inv)

/-- O54. The invariant holds at reset, at creation with parameters whose F has a zero low nibble and canonical RAM, and
after every load of a canonical cartridge. -/
def Obligations.ResetHasInv : Prop :=
  State.reset.Inv ∧
  (∀ (cfg : Config) (init : InitMem), cfg.resetRegs.f &&& 0x0F = 0 →
    init.vram.wf ∧ init.vram.below 0x2000 → init.wram.wf ∧ init.wram.below 0x2000 →
    init.oam.wf ∧ init.oam.below 160 → init.hram.wf ∧ init.hram.below 127 → (State.created cfg init).Inv) ∧
  (∀ (s : State) (im : CartridgeImage), s.Inv → s.cfg.resetRegs.f &&& 0x0F = 0 →
    im.cram.wf ∧ im.cram.below im.cart.cramLen → (loadCartridge (some im) s).2.Inv)

/-- O55. Of the instructions that complete, only HALT and STOP clear `running` and none sets it, only DI, EI and RETI
write `ime`, and none changes the cartridge's ROM or lengths or the parameters (that these are a field of the state is
log entry 1). An instruction that raises the fault clears `running` and changes nothing else (decision D13). HALT, STOP
and `ime` are decisions D14 to D16, log entry 16 (10_state.md section 7; 60_exceptions.md section 1). -/
def Obligations.OnlyTheseWriteBookkeeping : Prop :=
  ∀ (i : Instr) (s : State),
    (∀ t, exec i s = .next t →
      (t.running ≠ s.running → t.running = false ∧ (i = .halt ∨ ∃ n, i = .stop n)) ∧
      (t.ime ≠ s.ime → i = .di ∨ i = .ei ∨ i = .reti) ∧
      t.cart = s.cart ∧ t.cfg = s.cfg) ∧
    (∀ table op addr t, exec i s = .fault (.unimplementedOpcode table op addr t) → t = { s with running := false })

/-- O56. Every instruction outside the list keeps F, in particular every load but `POP AF` and `LD HL,SP+e`, every
control transfer, PUSH, RES and SET (10_state.md section 4). -/
def Obligations.OnlyTheseWriteFlags : Prop :=
  ∀ (i : Instr) (s t : State), exec i s = .next t → ¬ WritesFlags i → t.regs.f = s.regs.f

/-- O57. A step of an instruction that is no control transfer leaves pc at its own address plus its length, modulo 2^16
(10_state.md section 3). -/
def Obligations.PcAdvancesByLength : Prop :=
  ∀ (s t : State) (i : Instr) (rest : List Byte), s.running = true →
    decode [busRead s s.regs.pc, busRead s (s.regs.pc + 1), busRead s (s.regs.pc + 2)] = .ok (i, rest) →
    ¬ SetsPc i → step s = .next t →
    t.regs.pc = .ofNat 16 (s.regs.pc.toNat + instrLength (busRead s s.regs.pc))

/-- O58. A step that completes adds to `cycles` the cost it returns to the host: the base cost of the instruction the
bytes at pc decode to, and for a conditional one whose condition holds its extra cost with it; a stopped console adds
nothing. The sink is append-only. A fault changes neither. That the cost is added inside the meaning is log entry 5, and
that the sink is a list of bytes is decision D19, log entry 15 (10_state.md section 7; 30_encoding.md section 1;
60_exceptions.md section 1). -/
def Obligations.CyclesAndSinkGrow : Prop :=
  ∀ (s : State),
    (∀ t, step s = .next t →
      t.cycles = s.cycles + stepCost s t ∧ s.serialOut <+: t.serialOut ∧
      (s.running = false → stepCost s t = 0) ∧
      (∀ i rest, s.running = true →
        decode [busRead s s.regs.pc, busRead s (s.regs.pc + 1), busRead s (s.regs.pc + 2)] = .ok (i, rest) →
        (Taken s i → stepCost s t = s.cfg.baseCost i + s.cfg.extraCost i) ∧
        (¬ Taken s i → stepCost s t = s.cfg.baseCost i))) ∧
    (∀ table op addr t, step s = .fault (.unimplementedOpcode table op addr t) →
      t.cycles = s.cycles ∧ t.serialOut = s.serialOut)

/-- O59. Two states that agree but for `ime`, `cycles` and what was emitted take steps that agree but for these three.
That nothing reads `ime` is decision D16, log entry 16 (10_state.md section 7). -/
def Obligations.HiddenStateUnseen : Prop :=
  ∀ (s t : State), s.visible = t.visible → visibleResult (step s) = visibleResult (step t)

/-- O60. The frame run, for every instruction stream: with the default costs, a call that raises no fault and leaves the
console running took at least 70224 and at most 70224 + 5 cycles, and a console stopped in mid-frame took no more
either. The exit in mid-frame is decision D22, the default costs are log entry 8, and the fuel of the model's loop is
log entry 15 (70_reset_and_hazards.md section 2). -/
def Obligations.FrameRunBounds : Prop :=
  ∀ (s t : State), s.cfg.cost = Config.defaultCost → runOneFrame s = .next t →
    s.cycles ≤ t.cycles ∧ t.cycles ≤ s.cycles + 70229 ∧
    (t.running = true → s.cycles + 70224 ≤ t.cycles)
end

