-- ==== Sys2Proof/Laws/Memory.lean ====
section
/-!
SUPPORT. Memory regions: what a read gives after a write, and that a write keeps the canonical form and the size.
-/

namespace Sys2Proof.Machine

@[simp] theorem Memory.read_nil (i : Nat) : Memory.read [] i = Memory.unlisted := rfl

theorem Memory.read_place_same (m : Memory) (i : Nat) (v : Byte) (h : ∀ c ∈ m, c.1 ≠ i) :
    (Memory.place i v m).read i = v := by
  induction m with
  | nil => simp [Memory.place, Memory.read]
  | cons c rest ih =>
    simp only [List.mem_cons, forall_eq_or_imp] at h
    unfold Memory.place
    split
    · simp [Memory.read]
    · simp [Memory.read, h.1, ih h.2]

theorem Memory.read_place_other (m : Memory) (i j : Nat) (v : Byte) (h : j ≠ i) :
    (Memory.place i v m).read j = m.read j := by
  induction m with
  | nil => simp [Memory.place, Memory.read, Ne.symm h]
  | cons c rest ih =>
    unfold Memory.place
    split
    · simp [Memory.read, Ne.symm h]
    · simp [Memory.read, ih]

theorem Memory.read_filter_same (m : Memory) (i : Nat) :
    Memory.read (m.filter (fun c => c.1 ≠ i)) i = Memory.unlisted := by
  induction m with
  | nil => rfl
  | cons c rest ih =>
    by_cases hc : c.1 = i <;> simp_all [Memory.read]

theorem Memory.read_filter_other (m : Memory) (i j : Nat) (h : j ≠ i) :
    Memory.read (m.filter (fun c => c.1 ≠ i)) j = m.read j := by
  induction m with
  | nil => rfl
  | cons c rest ih =>
    by_cases hc : c.1 = i
    · have : c.1 ≠ j := by omega
      simp_all [Memory.read]
    · simp_all [Memory.read]

@[simp] theorem Memory.read_write_same (m : Memory) (i : Nat) (v : Byte) : (m.write i v).read i = v := by
  unfold Memory.write
  by_cases hv : v = Memory.unlisted
  · rw [if_pos hv, Memory.read_filter_same, hv]
  · simp only [hv, if_false]
    exact Memory.read_place_same _ _ _ (by simp)

theorem Memory.read_write_other (m : Memory) (i j : Nat) (v : Byte) (h : j ≠ i) :
    (m.write i v).read j = m.read j := by
  unfold Memory.write
  by_cases hv : v = Memory.unlisted
  · rw [if_pos hv, Memory.read_filter_other m i j h]
  · rw [if_neg hv, Memory.read_place_other _ _ _ _ h, Memory.read_filter_other m i j h]

theorem Memory.mem_place {m : Memory} {i : Nat} {v : Byte} {c : Host.Cell} :
    c ∈ Memory.place i v m ↔ c = (i, v) ∨ c ∈ m := by
  induction m with
  | nil => simp [Memory.place]
  | cons d rest ih =>
    unfold Memory.place
    split
    · simp
    · simp only [List.mem_cons, ih]
      tauto

theorem Memory.pairwise_place {m : Memory} {i : Nat} {v : Byte} (h : m.Pairwise (fun x y => x.1 < y.1))
    (hi : ∀ c ∈ m, c.1 ≠ i) : (Memory.place i v m).Pairwise (fun x y => x.1 < y.1) := by
  induction m with
  | nil => simp [Memory.place]
  | cons d rest ih =>
    simp only [List.mem_cons, forall_eq_or_imp] at hi
    simp only [List.pairwise_cons] at h
    unfold Memory.place
    split
    · rename_i hlt
      refine List.pairwise_cons.2 ⟨?_, List.pairwise_cons.2 h⟩
      intro c hc
      rcases List.mem_cons.1 hc with rfl | hc
      · exact hlt
      · exact Nat.lt_trans hlt (h.1 c hc)
    · refine List.pairwise_cons.2 ⟨?_, ih h.2 hi.2⟩
      intro c hc
      rcases Memory.mem_place.1 hc with rfl | hc
      · show d.1 < i
        omega
      · exact h.1 c hc

/-- A write keeps the canonical form. -/
theorem Memory.write_wf {m : Memory} (h : m.wf) (i : Nat) (v : Byte) : (m.write i v).wf := by
  unfold Memory.write
  have hf : Memory.wf (m.filter (fun c => c.1 ≠ i)) :=
    ⟨h.1.filter _, fun c hc => h.2 c (List.mem_filter.1 hc).1⟩
  by_cases hv : v = Memory.unlisted
  · simpa [hv] using hf
  · simp only [hv, if_false]
    refine ⟨Memory.pairwise_place hf.1 (by simp), fun c hc => ?_⟩
    rcases Memory.mem_place.1 hc with rfl | hc
    · exact hv
    · exact hf.2 c hc

/-- A write inside a region keeps the region's size. -/
theorem Memory.write_below {m : Memory} {size : Nat} (h : m.below size) (i : Nat) (hi : i < size) (v : Byte) :
    (m.write i v).below size := by
  intro c hc
  unfold Memory.write at hc
  have hf : ∀ d ∈ m.filter (fun c => c.1 ≠ i), d.1 < size := fun d hd => h d (List.mem_filter.1 hd).1
  by_cases hv : v = Memory.unlisted
  · simp only [hv, if_true] at hc
    exact hf c hc
  · simp only [hv, if_false] at hc
    rcases Memory.mem_place.1 hc with rfl | hc
    · exact hi
    · exact hf c hc

theorem Memory.read_unlisted {m : Memory} {i : Nat} (h : ∀ c ∈ m, c.1 ≠ i) : m.read i = Memory.unlisted := by
  induction m with
  | nil => rfl
  | cons c rest ih =>
    simp only [List.mem_cons, forall_eq_or_imp] at h
    simp [Memory.read, h.1, ih h.2]

/-- Canonical memories that read alike are equal data. -/
theorem Memory.eq_of_read_eq {m n : Memory} (hm : m.wf) (hn : n.wf) (h : ∀ i, m.read i = n.read i) : m = n := by
  induction m generalizing n with
  | nil =>
    cases n with
    | nil => rfl
    | cons d ns =>
      have := h d.1
      simp only [Memory.read, if_true] at this
      exact absurd this.symm (hn.2 d (by simp))
  | cons c ms ih =>
    cases n with
    | nil =>
      have := h c.1
      simp only [Memory.read, if_true] at this
      exact absurd this (hm.2 c (by simp))
    | cons d ns =>
      have hm1 := List.pairwise_cons.1 hm.1
      have hn1 := List.pairwise_cons.1 hn.1
      have hms : ∀ i, i ≤ c.1 → Memory.read ms i = Memory.unlisted := fun i hi =>
        Memory.read_unlisted fun e he => by have := hm1.1 e he; omega
      have hns : ∀ i, i ≤ d.1 → Memory.read ns i = Memory.unlisted := fun i hi =>
        Memory.read_unlisted fun e he => by have := hn1.1 e he; omega
      have hc2 := hm.2 c (by simp)
      have hd2 := hn.2 d (by simp)
      have hcd : c.1 = d.1 := by
        rcases Nat.lt_trichotomy c.1 d.1 with hlt | heq | hgt
        · have := h c.1
          simp only [Memory.read, if_true, if_neg (Nat.ne_of_gt hlt), hns c.1 (by omega)] at this
          exact absurd this hc2
        · exact heq
        · have := h d.1
          simp only [Memory.read, if_true, if_neg (Nat.ne_of_gt hgt), hms d.1 (by omega)] at this
          exact absurd this.symm hd2
      have hval : c.2 = d.2 := by
        have := h c.1
        simpa [Memory.read, hcd] using this
      have htail : ms = ns := ih ⟨hm1.2, fun e he => hm.2 e (by simp [he])⟩ ⟨hn1.2, fun e he => hn.2 e (by simp [he])⟩ (by
        intro i
        by_cases hi : i = c.1
        · rw [hms i (by omega), hns i (by omega)]
        · have := h i
          have h1 : c.1 ≠ i := Ne.symm hi
          have h2 : d.1 ≠ i := by omega
          simpa [Memory.read, h1, h2] using this)
      rw [htail, Prod.ext hcd hval]

end Sys2Proof.Machine
end

