-- ==== Sys2Proof/Laws/State.lean ====
section
/-!
SUPPORT. The small lemmas of the Console State and its register file: one per field per update.
-/

namespace Sys2Proof

/-! ### The register file -/

@[simp] theorem Regs.get8_set8 (g : Regs) (r q : Reg8) (v : Byte) :
    (g.set8 r v).get8 q = if q = r then v else g.get8 q := by
  cases r <;> cases q <;> rfl

@[simp] theorem Regs.f_set8 (g : Regs) (r : Reg8) (v : Byte) : (g.set8 r v).f = g.f := by cases r <;> rfl

@[simp] theorem Regs.sp_set8 (g : Regs) (r : Reg8) (v : Byte) : (g.set8 r v).sp = g.sp := by cases r <;> rfl

@[simp] theorem Regs.pc_set8 (g : Regs) (r : Reg8) (v : Byte) : (g.set8 r v).pc = g.pc := by cases r <;> rfl

@[simp] theorem Regs.f_set16 (g : Regs) (p : Reg16) (w : Word) : (g.set16 p w).f = g.f := by cases p <;> rfl

@[simp] theorem Regs.pc_set16 (g : Regs) (p : Reg16) (w : Word) : (g.set16 p w).pc = g.pc := by cases p <;> rfl

@[simp] theorem Regs.a_set16 (g : Regs) (p : Reg16) (w : Word) : (g.set16 p w).a = g.a := by cases p <;> rfl

@[simp] theorem hi8_joinBytes (x y : Byte) : hi8 (joinBytes x y) = x := by
  apply BitVec.eq_of_toNat_eq
  simp only [hi8, joinBytes, BitVec.toNat_ofNat]
  omega

@[simp] theorem lo8_joinBytes (x y : Byte) : lo8 (joinBytes x y) = y := by
  apply BitVec.eq_of_toNat_eq
  simp only [lo8, joinBytes, BitVec.toNat_ofNat]
  omega

@[simp] theorem joinBytes_hi8_lo8 (w : Word) : joinBytes (hi8 w) (lo8 w) = w := by
  apply BitVec.eq_of_toNat_eq
  simp only [hi8, lo8, joinBytes, BitVec.toNat_ofNat]
  omega

@[simp] theorem Regs.get16_set16 (g : Regs) (p q : Reg16) (w : Word) :
    (g.set16 p w).get16 q = if q = p then w else g.get16 q := by
  cases p <;> cases q <;> simp [Regs.get16, Regs.set16]

end Sys2Proof

namespace Sys2Proof.Machine

/-! ### The flags -/

@[simp] theorem unpackF_packF (fs : FlagSet) : unpackF (packF fs) = fs := by
  obtain ⟨z, n, h, c⟩ := fs
  cases z <;> cases n <;> cases h <;> cases c <;> rfl

@[simp] theorem packF_high (fs : FlagSet) : packF fs &&& 0xF0#8 = packF fs := by
  obtain ⟨z, n, h, c⟩ := fs
  cases z <;> cases n <;> cases h <;> cases c <;> rfl

@[simp] theorem packF_low (fs : FlagSet) : packF fs &&& 0x0F#8 = 0#8 := by
  obtain ⟨z, n, h, c⟩ := fs
  cases z <;> cases n <;> cases h <;> cases c <;> rfl

/-! ### One lemma per field per update -/

namespace State

@[simp] theorem cfg_set8 (s : State) (r : Reg8) (v : Byte) : (s.set8 r v).cfg = s.cfg := rfl
@[simp] theorem regs_set8 (s : State) (r : Reg8) (v : Byte) : (s.set8 r v).regs = s.regs.set8 r v := rfl
@[simp] theorem ime_set8 (s : State) (r : Reg8) (v : Byte) : (s.set8 r v).ime = s.ime := rfl
@[simp] theorem vram_set8 (s : State) (r : Reg8) (v : Byte) : (s.set8 r v).vram = s.vram := rfl
@[simp] theorem wram_set8 (s : State) (r : Reg8) (v : Byte) : (s.set8 r v).wram = s.wram := rfl
@[simp] theorem oam_set8 (s : State) (r : Reg8) (v : Byte) : (s.set8 r v).oam = s.oam := rfl
@[simp] theorem hram_set8 (s : State) (r : Reg8) (v : Byte) : (s.set8 r v).hram = s.hram := rfl
@[simp] theorem cram_set8 (s : State) (r : Reg8) (v : Byte) : (s.set8 r v).cram = s.cram := rfl
@[simp] theorem cart_set8 (s : State) (r : Reg8) (v : Byte) : (s.set8 r v).cart = s.cart := rfl
@[simp] theorem io_set8 (s : State) (r : Reg8) (v : Byte) : (s.set8 r v).io = s.io := rfl
@[simp] theorem ie_set8 (s : State) (r : Reg8) (v : Byte) : (s.set8 r v).ie = s.ie := rfl
@[simp] theorem running_set8 (s : State) (r : Reg8) (v : Byte) : (s.set8 r v).running = s.running := rfl
@[simp] theorem cycles_set8 (s : State) (r : Reg8) (v : Byte) : (s.set8 r v).cycles = s.cycles := rfl
@[simp] theorem serialOut_set8 (s : State) (r : Reg8) (v : Byte) : (s.set8 r v).serialOut = s.serialOut := rfl

@[simp] theorem cfg_set16 (s : State) (p : Reg16) (w : Word) : (s.set16 p w).cfg = s.cfg := rfl
@[simp] theorem regs_set16 (s : State) (p : Reg16) (w : Word) : (s.set16 p w).regs = s.regs.set16 p w := rfl
@[simp] theorem ime_set16 (s : State) (p : Reg16) (w : Word) : (s.set16 p w).ime = s.ime := rfl
@[simp] theorem vram_set16 (s : State) (p : Reg16) (w : Word) : (s.set16 p w).vram = s.vram := rfl
@[simp] theorem wram_set16 (s : State) (p : Reg16) (w : Word) : (s.set16 p w).wram = s.wram := rfl
@[simp] theorem oam_set16 (s : State) (p : Reg16) (w : Word) : (s.set16 p w).oam = s.oam := rfl
@[simp] theorem hram_set16 (s : State) (p : Reg16) (w : Word) : (s.set16 p w).hram = s.hram := rfl
@[simp] theorem cram_set16 (s : State) (p : Reg16) (w : Word) : (s.set16 p w).cram = s.cram := rfl
@[simp] theorem cart_set16 (s : State) (p : Reg16) (w : Word) : (s.set16 p w).cart = s.cart := rfl
@[simp] theorem io_set16 (s : State) (p : Reg16) (w : Word) : (s.set16 p w).io = s.io := rfl
@[simp] theorem ie_set16 (s : State) (p : Reg16) (w : Word) : (s.set16 p w).ie = s.ie := rfl
@[simp] theorem running_set16 (s : State) (p : Reg16) (w : Word) : (s.set16 p w).running = s.running := rfl
@[simp] theorem cycles_set16 (s : State) (p : Reg16) (w : Word) : (s.set16 p w).cycles = s.cycles := rfl
@[simp] theorem serialOut_set16 (s : State) (p : Reg16) (w : Word) : (s.set16 p w).serialOut = s.serialOut := rfl

@[simp] theorem cfg_setF (s : State) (v : Byte) : (s.setF v).cfg = s.cfg := rfl
@[simp] theorem regs_setF (s : State) (v : Byte) : (s.setF v).regs = { s.regs with f := v &&& 0xF0 } := rfl
@[simp] theorem ime_setF (s : State) (v : Byte) : (s.setF v).ime = s.ime := rfl
@[simp] theorem vram_setF (s : State) (v : Byte) : (s.setF v).vram = s.vram := rfl
@[simp] theorem wram_setF (s : State) (v : Byte) : (s.setF v).wram = s.wram := rfl
@[simp] theorem oam_setF (s : State) (v : Byte) : (s.setF v).oam = s.oam := rfl
@[simp] theorem hram_setF (s : State) (v : Byte) : (s.setF v).hram = s.hram := rfl
@[simp] theorem cram_setF (s : State) (v : Byte) : (s.setF v).cram = s.cram := rfl
@[simp] theorem cart_setF (s : State) (v : Byte) : (s.setF v).cart = s.cart := rfl
@[simp] theorem io_setF (s : State) (v : Byte) : (s.setF v).io = s.io := rfl
@[simp] theorem ie_setF (s : State) (v : Byte) : (s.setF v).ie = s.ie := rfl
@[simp] theorem running_setF (s : State) (v : Byte) : (s.setF v).running = s.running := rfl
@[simp] theorem cycles_setF (s : State) (v : Byte) : (s.setF v).cycles = s.cycles := rfl
@[simp] theorem serialOut_setF (s : State) (v : Byte) : (s.setF v).serialOut = s.serialOut := rfl

@[simp] theorem cfg_setFlags (s : State) (fs : FlagSet) : (s.setFlags fs).cfg = s.cfg := rfl
@[simp] theorem regs_setFlags (s : State) (fs : FlagSet) : (s.setFlags fs).regs = { s.regs with f := packF fs &&& 0xF0 } := rfl
@[simp] theorem ime_setFlags (s : State) (fs : FlagSet) : (s.setFlags fs).ime = s.ime := rfl
@[simp] theorem vram_setFlags (s : State) (fs : FlagSet) : (s.setFlags fs).vram = s.vram := rfl
@[simp] theorem wram_setFlags (s : State) (fs : FlagSet) : (s.setFlags fs).wram = s.wram := rfl
@[simp] theorem oam_setFlags (s : State) (fs : FlagSet) : (s.setFlags fs).oam = s.oam := rfl
@[simp] theorem hram_setFlags (s : State) (fs : FlagSet) : (s.setFlags fs).hram = s.hram := rfl
@[simp] theorem cram_setFlags (s : State) (fs : FlagSet) : (s.setFlags fs).cram = s.cram := rfl
@[simp] theorem cart_setFlags (s : State) (fs : FlagSet) : (s.setFlags fs).cart = s.cart := rfl
@[simp] theorem io_setFlags (s : State) (fs : FlagSet) : (s.setFlags fs).io = s.io := rfl
@[simp] theorem ie_setFlags (s : State) (fs : FlagSet) : (s.setFlags fs).ie = s.ie := rfl
@[simp] theorem running_setFlags (s : State) (fs : FlagSet) : (s.setFlags fs).running = s.running := rfl
@[simp] theorem cycles_setFlags (s : State) (fs : FlagSet) : (s.setFlags fs).cycles = s.cycles := rfl
@[simp] theorem serialOut_setFlags (s : State) (fs : FlagSet) : (s.setFlags fs).serialOut = s.serialOut := rfl

@[simp] theorem cfg_setPc (s : State) (w : Word) : (s.setPc w).cfg = s.cfg := rfl
@[simp] theorem regs_setPc (s : State) (w : Word) : (s.setPc w).regs = { s.regs with pc := w } := rfl
@[simp] theorem ime_setPc (s : State) (w : Word) : (s.setPc w).ime = s.ime := rfl
@[simp] theorem vram_setPc (s : State) (w : Word) : (s.setPc w).vram = s.vram := rfl
@[simp] theorem wram_setPc (s : State) (w : Word) : (s.setPc w).wram = s.wram := rfl
@[simp] theorem oam_setPc (s : State) (w : Word) : (s.setPc w).oam = s.oam := rfl
@[simp] theorem hram_setPc (s : State) (w : Word) : (s.setPc w).hram = s.hram := rfl
@[simp] theorem cram_setPc (s : State) (w : Word) : (s.setPc w).cram = s.cram := rfl
@[simp] theorem cart_setPc (s : State) (w : Word) : (s.setPc w).cart = s.cart := rfl
@[simp] theorem io_setPc (s : State) (w : Word) : (s.setPc w).io = s.io := rfl
@[simp] theorem ie_setPc (s : State) (w : Word) : (s.setPc w).ie = s.ie := rfl
@[simp] theorem running_setPc (s : State) (w : Word) : (s.setPc w).running = s.running := rfl
@[simp] theorem cycles_setPc (s : State) (w : Word) : (s.setPc w).cycles = s.cycles := rfl
@[simp] theorem serialOut_setPc (s : State) (w : Word) : (s.setPc w).serialOut = s.serialOut := rfl

@[simp] theorem cfg_setIme (s : State) (b : Bool) : (s.setIme b).cfg = s.cfg := rfl
@[simp] theorem regs_setIme (s : State) (b : Bool) : (s.setIme b).regs = s.regs := rfl
@[simp] theorem ime_setIme (s : State) (b : Bool) : (s.setIme b).ime = b := rfl
@[simp] theorem vram_setIme (s : State) (b : Bool) : (s.setIme b).vram = s.vram := rfl
@[simp] theorem wram_setIme (s : State) (b : Bool) : (s.setIme b).wram = s.wram := rfl
@[simp] theorem oam_setIme (s : State) (b : Bool) : (s.setIme b).oam = s.oam := rfl
@[simp] theorem hram_setIme (s : State) (b : Bool) : (s.setIme b).hram = s.hram := rfl
@[simp] theorem cram_setIme (s : State) (b : Bool) : (s.setIme b).cram = s.cram := rfl
@[simp] theorem cart_setIme (s : State) (b : Bool) : (s.setIme b).cart = s.cart := rfl
@[simp] theorem io_setIme (s : State) (b : Bool) : (s.setIme b).io = s.io := rfl
@[simp] theorem ie_setIme (s : State) (b : Bool) : (s.setIme b).ie = s.ie := rfl
@[simp] theorem running_setIme (s : State) (b : Bool) : (s.setIme b).running = s.running := rfl
@[simp] theorem cycles_setIme (s : State) (b : Bool) : (s.setIme b).cycles = s.cycles := rfl
@[simp] theorem serialOut_setIme (s : State) (b : Bool) : (s.setIme b).serialOut = s.serialOut := rfl

@[simp] theorem cfg_setRunning (s : State) (b : Bool) : (s.setRunning b).cfg = s.cfg := rfl
@[simp] theorem regs_setRunning (s : State) (b : Bool) : (s.setRunning b).regs = s.regs := rfl
@[simp] theorem ime_setRunning (s : State) (b : Bool) : (s.setRunning b).ime = s.ime := rfl
@[simp] theorem vram_setRunning (s : State) (b : Bool) : (s.setRunning b).vram = s.vram := rfl
@[simp] theorem wram_setRunning (s : State) (b : Bool) : (s.setRunning b).wram = s.wram := rfl
@[simp] theorem oam_setRunning (s : State) (b : Bool) : (s.setRunning b).oam = s.oam := rfl
@[simp] theorem hram_setRunning (s : State) (b : Bool) : (s.setRunning b).hram = s.hram := rfl
@[simp] theorem cram_setRunning (s : State) (b : Bool) : (s.setRunning b).cram = s.cram := rfl
@[simp] theorem cart_setRunning (s : State) (b : Bool) : (s.setRunning b).cart = s.cart := rfl
@[simp] theorem io_setRunning (s : State) (b : Bool) : (s.setRunning b).io = s.io := rfl
@[simp] theorem ie_setRunning (s : State) (b : Bool) : (s.setRunning b).ie = s.ie := rfl
@[simp] theorem running_setRunning (s : State) (b : Bool) : (s.setRunning b).running = b := rfl
@[simp] theorem cycles_setRunning (s : State) (b : Bool) : (s.setRunning b).cycles = s.cycles := rfl
@[simp] theorem serialOut_setRunning (s : State) (b : Bool) : (s.setRunning b).serialOut = s.serialOut := rfl

@[simp] theorem cfg_addCycles (s : State) (n : Nat) : (s.addCycles n).cfg = s.cfg := rfl
@[simp] theorem regs_addCycles (s : State) (n : Nat) : (s.addCycles n).regs = s.regs := rfl
@[simp] theorem ime_addCycles (s : State) (n : Nat) : (s.addCycles n).ime = s.ime := rfl
@[simp] theorem vram_addCycles (s : State) (n : Nat) : (s.addCycles n).vram = s.vram := rfl
@[simp] theorem wram_addCycles (s : State) (n : Nat) : (s.addCycles n).wram = s.wram := rfl
@[simp] theorem oam_addCycles (s : State) (n : Nat) : (s.addCycles n).oam = s.oam := rfl
@[simp] theorem hram_addCycles (s : State) (n : Nat) : (s.addCycles n).hram = s.hram := rfl
@[simp] theorem cram_addCycles (s : State) (n : Nat) : (s.addCycles n).cram = s.cram := rfl
@[simp] theorem cart_addCycles (s : State) (n : Nat) : (s.addCycles n).cart = s.cart := rfl
@[simp] theorem io_addCycles (s : State) (n : Nat) : (s.addCycles n).io = s.io := rfl
@[simp] theorem ie_addCycles (s : State) (n : Nat) : (s.addCycles n).ie = s.ie := rfl
@[simp] theorem running_addCycles (s : State) (n : Nat) : (s.addCycles n).running = s.running := rfl
@[simp] theorem cycles_addCycles (s : State) (n : Nat) : (s.addCycles n).cycles = s.cycles + n := rfl
@[simp] theorem serialOut_addCycles (s : State) (n : Nat) : (s.addCycles n).serialOut = s.serialOut := rfl

@[simp] theorem cfg_setVram (s : State) (m : Memory) : (s.setVram m).cfg = s.cfg := rfl
@[simp] theorem regs_setVram (s : State) (m : Memory) : (s.setVram m).regs = s.regs := rfl
@[simp] theorem ime_setVram (s : State) (m : Memory) : (s.setVram m).ime = s.ime := rfl
@[simp] theorem vram_setVram (s : State) (m : Memory) : (s.setVram m).vram = m := rfl
@[simp] theorem wram_setVram (s : State) (m : Memory) : (s.setVram m).wram = s.wram := rfl
@[simp] theorem oam_setVram (s : State) (m : Memory) : (s.setVram m).oam = s.oam := rfl
@[simp] theorem hram_setVram (s : State) (m : Memory) : (s.setVram m).hram = s.hram := rfl
@[simp] theorem cram_setVram (s : State) (m : Memory) : (s.setVram m).cram = s.cram := rfl
@[simp] theorem cart_setVram (s : State) (m : Memory) : (s.setVram m).cart = s.cart := rfl
@[simp] theorem io_setVram (s : State) (m : Memory) : (s.setVram m).io = s.io := rfl
@[simp] theorem ie_setVram (s : State) (m : Memory) : (s.setVram m).ie = s.ie := rfl
@[simp] theorem running_setVram (s : State) (m : Memory) : (s.setVram m).running = s.running := rfl
@[simp] theorem cycles_setVram (s : State) (m : Memory) : (s.setVram m).cycles = s.cycles := rfl
@[simp] theorem serialOut_setVram (s : State) (m : Memory) : (s.setVram m).serialOut = s.serialOut := rfl

@[simp] theorem cfg_setWram (s : State) (m : Memory) : (s.setWram m).cfg = s.cfg := rfl
@[simp] theorem regs_setWram (s : State) (m : Memory) : (s.setWram m).regs = s.regs := rfl
@[simp] theorem ime_setWram (s : State) (m : Memory) : (s.setWram m).ime = s.ime := rfl
@[simp] theorem vram_setWram (s : State) (m : Memory) : (s.setWram m).vram = s.vram := rfl
@[simp] theorem wram_setWram (s : State) (m : Memory) : (s.setWram m).wram = m := rfl
@[simp] theorem oam_setWram (s : State) (m : Memory) : (s.setWram m).oam = s.oam := rfl
@[simp] theorem hram_setWram (s : State) (m : Memory) : (s.setWram m).hram = s.hram := rfl
@[simp] theorem cram_setWram (s : State) (m : Memory) : (s.setWram m).cram = s.cram := rfl
@[simp] theorem cart_setWram (s : State) (m : Memory) : (s.setWram m).cart = s.cart := rfl
@[simp] theorem io_setWram (s : State) (m : Memory) : (s.setWram m).io = s.io := rfl
@[simp] theorem ie_setWram (s : State) (m : Memory) : (s.setWram m).ie = s.ie := rfl
@[simp] theorem running_setWram (s : State) (m : Memory) : (s.setWram m).running = s.running := rfl
@[simp] theorem cycles_setWram (s : State) (m : Memory) : (s.setWram m).cycles = s.cycles := rfl
@[simp] theorem serialOut_setWram (s : State) (m : Memory) : (s.setWram m).serialOut = s.serialOut := rfl

@[simp] theorem cfg_setOam (s : State) (m : Memory) : (s.setOam m).cfg = s.cfg := rfl
@[simp] theorem regs_setOam (s : State) (m : Memory) : (s.setOam m).regs = s.regs := rfl
@[simp] theorem ime_setOam (s : State) (m : Memory) : (s.setOam m).ime = s.ime := rfl
@[simp] theorem vram_setOam (s : State) (m : Memory) : (s.setOam m).vram = s.vram := rfl
@[simp] theorem wram_setOam (s : State) (m : Memory) : (s.setOam m).wram = s.wram := rfl
@[simp] theorem oam_setOam (s : State) (m : Memory) : (s.setOam m).oam = m := rfl
@[simp] theorem hram_setOam (s : State) (m : Memory) : (s.setOam m).hram = s.hram := rfl
@[simp] theorem cram_setOam (s : State) (m : Memory) : (s.setOam m).cram = s.cram := rfl
@[simp] theorem cart_setOam (s : State) (m : Memory) : (s.setOam m).cart = s.cart := rfl
@[simp] theorem io_setOam (s : State) (m : Memory) : (s.setOam m).io = s.io := rfl
@[simp] theorem ie_setOam (s : State) (m : Memory) : (s.setOam m).ie = s.ie := rfl
@[simp] theorem running_setOam (s : State) (m : Memory) : (s.setOam m).running = s.running := rfl
@[simp] theorem cycles_setOam (s : State) (m : Memory) : (s.setOam m).cycles = s.cycles := rfl
@[simp] theorem serialOut_setOam (s : State) (m : Memory) : (s.setOam m).serialOut = s.serialOut := rfl

@[simp] theorem cfg_setHram (s : State) (m : Memory) : (s.setHram m).cfg = s.cfg := rfl
@[simp] theorem regs_setHram (s : State) (m : Memory) : (s.setHram m).regs = s.regs := rfl
@[simp] theorem ime_setHram (s : State) (m : Memory) : (s.setHram m).ime = s.ime := rfl
@[simp] theorem vram_setHram (s : State) (m : Memory) : (s.setHram m).vram = s.vram := rfl
@[simp] theorem wram_setHram (s : State) (m : Memory) : (s.setHram m).wram = s.wram := rfl
@[simp] theorem oam_setHram (s : State) (m : Memory) : (s.setHram m).oam = s.oam := rfl
@[simp] theorem hram_setHram (s : State) (m : Memory) : (s.setHram m).hram = m := rfl
@[simp] theorem cram_setHram (s : State) (m : Memory) : (s.setHram m).cram = s.cram := rfl
@[simp] theorem cart_setHram (s : State) (m : Memory) : (s.setHram m).cart = s.cart := rfl
@[simp] theorem io_setHram (s : State) (m : Memory) : (s.setHram m).io = s.io := rfl
@[simp] theorem ie_setHram (s : State) (m : Memory) : (s.setHram m).ie = s.ie := rfl
@[simp] theorem running_setHram (s : State) (m : Memory) : (s.setHram m).running = s.running := rfl
@[simp] theorem cycles_setHram (s : State) (m : Memory) : (s.setHram m).cycles = s.cycles := rfl
@[simp] theorem serialOut_setHram (s : State) (m : Memory) : (s.setHram m).serialOut = s.serialOut := rfl

@[simp] theorem cfg_setCram (s : State) (m : Memory) : (s.setCram m).cfg = s.cfg := rfl
@[simp] theorem regs_setCram (s : State) (m : Memory) : (s.setCram m).regs = s.regs := rfl
@[simp] theorem ime_setCram (s : State) (m : Memory) : (s.setCram m).ime = s.ime := rfl
@[simp] theorem vram_setCram (s : State) (m : Memory) : (s.setCram m).vram = s.vram := rfl
@[simp] theorem wram_setCram (s : State) (m : Memory) : (s.setCram m).wram = s.wram := rfl
@[simp] theorem oam_setCram (s : State) (m : Memory) : (s.setCram m).oam = s.oam := rfl
@[simp] theorem hram_setCram (s : State) (m : Memory) : (s.setCram m).hram = s.hram := rfl
@[simp] theorem cram_setCram (s : State) (m : Memory) : (s.setCram m).cram = m := rfl
@[simp] theorem cart_setCram (s : State) (m : Memory) : (s.setCram m).cart = s.cart := rfl
@[simp] theorem io_setCram (s : State) (m : Memory) : (s.setCram m).io = s.io := rfl
@[simp] theorem ie_setCram (s : State) (m : Memory) : (s.setCram m).ie = s.ie := rfl
@[simp] theorem running_setCram (s : State) (m : Memory) : (s.setCram m).running = s.running := rfl
@[simp] theorem cycles_setCram (s : State) (m : Memory) : (s.setCram m).cycles = s.cycles := rfl
@[simp] theorem serialOut_setCram (s : State) (m : Memory) : (s.setCram m).serialOut = s.serialOut := rfl

@[simp] theorem cfg_setIo (s : State) (r : IoReg) (v : Byte) : (s.setIo r v).cfg = s.cfg := rfl
@[simp] theorem regs_setIo (s : State) (r : IoReg) (v : Byte) : (s.setIo r v).regs = s.regs := rfl
@[simp] theorem ime_setIo (s : State) (r : IoReg) (v : Byte) : (s.setIo r v).ime = s.ime := rfl
@[simp] theorem vram_setIo (s : State) (r : IoReg) (v : Byte) : (s.setIo r v).vram = s.vram := rfl
@[simp] theorem wram_setIo (s : State) (r : IoReg) (v : Byte) : (s.setIo r v).wram = s.wram := rfl
@[simp] theorem oam_setIo (s : State) (r : IoReg) (v : Byte) : (s.setIo r v).oam = s.oam := rfl
@[simp] theorem hram_setIo (s : State) (r : IoReg) (v : Byte) : (s.setIo r v).hram = s.hram := rfl
@[simp] theorem cram_setIo (s : State) (r : IoReg) (v : Byte) : (s.setIo r v).cram = s.cram := rfl
@[simp] theorem cart_setIo (s : State) (r : IoReg) (v : Byte) : (s.setIo r v).cart = s.cart := rfl
@[simp] theorem io_setIo (s : State) (r : IoReg) (v : Byte) : (s.setIo r v).io = s.io.set r v := rfl
@[simp] theorem ie_setIo (s : State) (r : IoReg) (v : Byte) : (s.setIo r v).ie = s.ie := rfl
@[simp] theorem running_setIo (s : State) (r : IoReg) (v : Byte) : (s.setIo r v).running = s.running := rfl
@[simp] theorem cycles_setIo (s : State) (r : IoReg) (v : Byte) : (s.setIo r v).cycles = s.cycles := rfl
@[simp] theorem serialOut_setIo (s : State) (r : IoReg) (v : Byte) : (s.setIo r v).serialOut = s.serialOut := rfl

@[simp] theorem cfg_setIe (s : State) (v : Byte) : (s.setIe v).cfg = s.cfg := rfl
@[simp] theorem regs_setIe (s : State) (v : Byte) : (s.setIe v).regs = s.regs := rfl
@[simp] theorem ime_setIe (s : State) (v : Byte) : (s.setIe v).ime = s.ime := rfl
@[simp] theorem vram_setIe (s : State) (v : Byte) : (s.setIe v).vram = s.vram := rfl
@[simp] theorem wram_setIe (s : State) (v : Byte) : (s.setIe v).wram = s.wram := rfl
@[simp] theorem oam_setIe (s : State) (v : Byte) : (s.setIe v).oam = s.oam := rfl
@[simp] theorem hram_setIe (s : State) (v : Byte) : (s.setIe v).hram = s.hram := rfl
@[simp] theorem cram_setIe (s : State) (v : Byte) : (s.setIe v).cram = s.cram := rfl
@[simp] theorem cart_setIe (s : State) (v : Byte) : (s.setIe v).cart = s.cart := rfl
@[simp] theorem io_setIe (s : State) (v : Byte) : (s.setIe v).io = s.io := rfl
@[simp] theorem ie_setIe (s : State) (v : Byte) : (s.setIe v).ie = v := rfl
@[simp] theorem running_setIe (s : State) (v : Byte) : (s.setIe v).running = s.running := rfl
@[simp] theorem cycles_setIe (s : State) (v : Byte) : (s.setIe v).cycles = s.cycles := rfl
@[simp] theorem serialOut_setIe (s : State) (v : Byte) : (s.setIe v).serialOut = s.serialOut := rfl

@[simp] theorem cfg_emit (s : State) (v : Byte) : (s.emit v).cfg = s.cfg := rfl
@[simp] theorem regs_emit (s : State) (v : Byte) : (s.emit v).regs = s.regs := rfl
@[simp] theorem ime_emit (s : State) (v : Byte) : (s.emit v).ime = s.ime := rfl
@[simp] theorem vram_emit (s : State) (v : Byte) : (s.emit v).vram = s.vram := rfl
@[simp] theorem wram_emit (s : State) (v : Byte) : (s.emit v).wram = s.wram := rfl
@[simp] theorem oam_emit (s : State) (v : Byte) : (s.emit v).oam = s.oam := rfl
@[simp] theorem hram_emit (s : State) (v : Byte) : (s.emit v).hram = s.hram := rfl
@[simp] theorem cram_emit (s : State) (v : Byte) : (s.emit v).cram = s.cram := rfl
@[simp] theorem cart_emit (s : State) (v : Byte) : (s.emit v).cart = s.cart := rfl
@[simp] theorem io_emit (s : State) (v : Byte) : (s.emit v).io = s.io := rfl
@[simp] theorem ie_emit (s : State) (v : Byte) : (s.emit v).ie = s.ie := rfl
@[simp] theorem running_emit (s : State) (v : Byte) : (s.emit v).running = s.running := rfl
@[simp] theorem cycles_emit (s : State) (v : Byte) : (s.emit v).cycles = s.cycles := rfl
@[simp] theorem serialOut_emit (s : State) (v : Byte) : (s.emit v).serialOut = s.serialOut ++ [v] := rfl

/-! ### Registers and flags of an updated state -/

@[simp] theorem get8_set8 (s : State) (r q : Reg8) (v : Byte) :
    (s.set8 r v).get8 q = if q = r then v else s.get8 q := Regs.get8_set8 s.regs r q v

@[simp] theorem get16_set16 (s : State) (p q : Reg16) (w : Word) :
    (s.set16 p w).get16 q = if q = p then w else s.get16 q := Regs.get16_set16 s.regs p q w

@[simp] theorem get8_setFlags (s : State) (fs : FlagSet) (r : Reg8) : (s.setFlags fs).get8 r = s.get8 r := by
  cases r <;> rfl

@[simp] theorem get8_setF (s : State) (v : Byte) (r : Reg8) : (s.setF v).get8 r = s.get8 r := by cases r <;> rfl

@[simp] theorem get8_setPc (s : State) (w : Word) (r : Reg8) : (s.setPc w).get8 r = s.get8 r := by cases r <;> rfl

@[simp] theorem get16_setFlags (s : State) (fs : FlagSet) (p : Reg16) : (s.setFlags fs).get16 p = s.get16 p := by
  cases p <;> rfl

@[simp] theorem get16_setPc (s : State) (w : Word) (p : Reg16) : (s.setPc w).get16 p = s.get16 p := by cases p <;> rfl

@[simp] theorem get8_set16_sp (s : State) (w : Word) (r : Reg8) : (s.set16 .sp w).get8 r = s.get8 r := by
  cases r <;> rfl

@[simp] theorem flags_setFlags (s : State) (fs : FlagSet) : (s.setFlags fs).flags = fs := by
  simp [State.flags]

@[simp] theorem flags_set8 (s : State) (r : Reg8) (v : Byte) : (s.set8 r v).flags = s.flags := by
  simp [State.flags]

@[simp] theorem flags_set16 (s : State) (p : Reg16) (w : Word) : (s.set16 p w).flags = s.flags := by
  simp [State.flags]

@[simp] theorem low_setFlags (s : State) (fs : FlagSet) : (s.setFlags fs).regs.f &&& 0x0F = 0 := by simp

@[simp] theorem low_setF (s : State) (v : Byte) : (s.setF v).regs.f &&& 0x0F = 0 := by
  simp only [regs_setF]
  rw [BitVec.and_assoc]
  exact BitVec.and_zero

end State

/-! ### The I/O block -/

theorem IoBlock.get_set (io : IoBlock) (r q : IoReg) (v : Byte) :
    (io.set r v).get q = if q = r then v else io.get q := by
  cases r <;> cases q <;> try rfl
  rename_i j k
  by_cases h : k = j
  · subst h; simp [IoBlock.get, IoBlock.set]
  · have : j.val ≠ k.val := fun e => h (Fin.ext e.symm)
    simp [IoBlock.get, IoBlock.set, h, this]

end Sys2Proof.Machine
end

