-- ==== Sys2Proof/Laws/Bus.lean ====
section
/-!
SUPPORT. The bus functions: what a read does not depend on, what a write leaves alone, and the OAM DMA copy.
-/

namespace Sys2Proof.Machine

/-! ### What a bus read does not depend on -/

@[simp] theorem busRead_set8 (s : State) (r : Reg8) (v : Byte) (a : Word) : busRead (s.set8 r v) a = busRead s a := rfl
@[simp] theorem busRead_set16 (s : State) (p : Reg16) (w a : Word) : busRead (s.set16 p w) a = busRead s a := rfl
@[simp] theorem busRead_setF (s : State) (v : Byte) (a : Word) : busRead (s.setF v) a = busRead s a := rfl
@[simp] theorem busRead_setFlags (s : State) (fs : FlagSet) (a : Word) :
    busRead (s.setFlags fs) a = busRead s a := rfl
@[simp] theorem busRead_setPc (s : State) (w a : Word) : busRead (s.setPc w) a = busRead s a := rfl
@[simp] theorem busRead_setIme (s : State) (b : Bool) (a : Word) : busRead (s.setIme b) a = busRead s a := rfl
@[simp] theorem busRead_setRunning (s : State) (b : Bool) (a : Word) :
    busRead (s.setRunning b) a = busRead s a := rfl
@[simp] theorem busRead_addCycles (s : State) (n : Nat) (a : Word) : busRead (s.addCycles n) a = busRead s a := rfl
@[simp] theorem busRead_emit (s : State) (v : Byte) (a : Word) : busRead (s.emit v) a = busRead s a := rfl

/-- A bus read depends on the parameters, the memory regions, the cartridge, the block and `IE` only. -/
theorem busRead_congr {s t : State} (hcfg : t.cfg = s.cfg) (hvram : t.vram = s.vram) (hwram : t.wram = s.wram)
    (hoam : t.oam = s.oam) (hhram : t.hram = s.hram) (hcram : t.cram = s.cram) (hcart : t.cart = s.cart)
    (hio : t.io = s.io) (hie : t.ie = s.ie) (a : Word) : busRead t a = busRead s a := by
  simp only [busRead, ioRead, hcfg, hvram, hwram, hoam, hhram, hcram, hcart, hio, hie]

/-- Outside OAM a bus read does not depend on OAM. -/
theorem busRead_setOam_other (s : State) (m : Memory) (a : Word) (h : region a ≠ .oam) :
    busRead (s.setOam m) a = busRead s a := by
  unfold busRead
  split <;> first | rfl | contradiction

theorem busRead_oam (s : State) (a : Word) (h : region a = .oam) : busRead s a = s.oam.read (a.toNat - 0xFE00) := by
  simp only [busRead, h]

/-- The range of an address, both ways. -/
theorem region_eq_oam {a : Word} : region a = .oam ↔ 0xFE00 ≤ a.toNat ∧ a.toNat ≤ 0xFE9F := by
  unfold region
  repeat' split
  all_goals simp only [reduceCtorEq, false_iff, true_iff]; omega

/-! ### The OAM DMA copy -/

/-- A copy changes OAM only. -/
theorem dmaCopy_eq (base : Word) (n : Nat) (s : State) : dmaCopy base n s = s.setOam (dmaCopy base n s).oam := by
  induction n with
  | zero => rfl
  | succ n ih =>
    obtain ⟨m, hm⟩ : ∃ m, dmaCopy base n s = s.setOam m := ⟨_, ih⟩
    simp only [dmaCopy, hm]
    rfl

theorem dmaCopy_oam_wf {s : State} (base : Word) (n : Nat) (h : s.oam.wf) : (dmaCopy base n s).oam.wf := by
  induction n with
  | zero => exact h
  | succ n ih => exact Memory.write_wf ih _ _

theorem dmaCopy_oam_below {s : State} (base : Word) (n size : Nat) (hn : n ≤ size) (h : s.oam.below size) :
    (dmaCopy base n s).oam.below size := by
  induction n with
  | zero => exact h
  | succ n ih => exact Memory.write_below (ih (by omega)) _ (by omega) _

theorem dmaCopy_read_later (base : Word) (n i : Nat) (s : State) (h : n ≤ i) :
    (dmaCopy base n s).oam.read i = s.oam.read i := by
  induction n with
  | zero => rfl
  | succ n ih =>
    show ((dmaCopy base n s).oam.write n _).read i = _
    rw [Memory.read_write_other _ _ _ _ (by omega), ih (by omega)]

/-- Every transferred byte is what the source address read as before the copy, the source in OAM included. -/
theorem dmaCopy_read (v : Byte) (n i : Nat) (s : State) (hn : n ≤ 160) (h : i < n) :
    (dmaCopy (joinBytes v 0x00) n s).oam.read i = busRead s (joinBytes v 0x00 + .ofNat 16 i) := by
  induction n with
  | zero => omega
  | succ n ih =>
    show ((dmaCopy _ n s).oam.write n (busRead (dmaCopy _ n s) _)).read i = _
    by_cases hi : i = n
    · subst hi
      rw [Memory.read_write_same]
      by_cases ho : region (joinBytes v 0x00 + .ofNat 16 i) = .oam
      · rw [busRead_oam _ _ ho, busRead_oam _ _ ho, dmaCopy_read_later]
        have := region_eq_oam.1 ho
        have hv := v.isLt
        have h0 : (0x00 : Byte).toNat = 0 := rfl
        simp only [joinBytes, h0, BitVec.toNat_add, BitVec.toNat_ofNat] at this ⊢
        omega
      · rw [dmaCopy_eq, busRead_setOam_other _ _ _ ho]
    · rw [Memory.read_write_other _ _ _ _ hi, ih (by omega) (by omega)]

/-! ### What a bus write leaves alone -/

/-- The write rules of the block change memory, the block and the sink only: with another register file they do the
same. -/
theorem ioWriteReg_regs (s : State) (g : Regs) (r : IoReg) (v : Byte) :
    ioWriteReg { s with regs := g } r v = { ioWriteReg s r v with regs := g } := by
  have hdma : ∀ (base : Word) (n : Nat) (s : State),
      dmaCopy base n { s with regs := g } = { dmaCopy base n s with regs := g } := by
    intro base n s
    induction n with
    | zero => rfl
    | succ n ih =>
      simp only [dmaCopy, ih]
      rfl
  cases r
  case sc => by_cases h : v.getLsbD 7 = true <;> simp only [ioWriteReg, h, if_true] <;> rfl
  case dma => exact hdma _ _ (s.setIo .dma v)
  all_goals rfl

theorem busWrite_regs (s : State) (g : Regs) (a : Word) (v : Byte) :
    busWrite { s with regs := g } a v = { busWrite s a v with regs := g } := by
  unfold busWrite
  cases region a
  case cram => simp only; split <;> rfl
  case io =>
    simp only [ioWrite]
    split
    · exact ioWriteReg_regs s g _ v
    · rfl
  all_goals rfl

/-- What one write rule of the block keeps. -/
theorem ioWriteReg_keeps (s : State) (r : IoReg) (v : Byte) :
    (ioWriteReg s r v).regs = s.regs ∧ (ioWriteReg s r v).cfg = s.cfg ∧ (ioWriteReg s r v).cart = s.cart ∧
    (ioWriteReg s r v).ime = s.ime ∧ (ioWriteReg s r v).running = s.running ∧
    (ioWriteReg s r v).cycles = s.cycles ∧ (ioWriteReg s r v).ie = s.ie ∧ (ioWriteReg s r v).vram = s.vram ∧
    (ioWriteReg s r v).wram = s.wram ∧ (ioWriteReg s r v).hram = s.hram ∧ (ioWriteReg s r v).cram = s.cram := by
  cases r
  case sc =>
    by_cases h : v.getLsbD 7 = true <;> simp only [ioWriteReg, h, if_true] <;>
      exact ⟨rfl, rfl, rfl, rfl, rfl, rfl, rfl, rfl, rfl, rfl, rfl⟩
  case dma =>
    obtain ⟨m, hm⟩ : ∃ m, ioWriteReg s .dma v = (s.setIo .dma v).setOam m := ⟨_, dmaCopy_eq _ _ _⟩
    rw [hm]
    exact ⟨rfl, rfl, rfl, rfl, rfl, rfl, rfl, rfl, rfl, rfl, rfl⟩
  all_goals exact ⟨rfl, rfl, rfl, rfl, rfl, rfl, rfl, rfl, rfl, rfl, rfl⟩

/-- What a bus write keeps, wherever it goes. -/
theorem busWrite_keeps (s : State) (a : Word) (v : Byte) :
    (busWrite s a v).regs = s.regs ∧ (busWrite s a v).cfg = s.cfg ∧ (busWrite s a v).cart = s.cart ∧
    (busWrite s a v).ime = s.ime ∧ (busWrite s a v).running = s.running ∧ (busWrite s a v).cycles = s.cycles := by
  unfold busWrite
  cases region a
  case cram => simp only; split <;> exact ⟨rfl, rfl, rfl, rfl, rfl, rfl⟩
  case io =>
    simp only [ioWrite]
    split
    · obtain ⟨h1, h2, h3, h4, h5, h6, -⟩ := ioWriteReg_keeps s ‹_› v
      exact ⟨h1, h2, h3, h4, h5, h6⟩
    · exact ⟨rfl, rfl, rfl, rfl, rfl, rfl⟩
  all_goals exact ⟨rfl, rfl, rfl, rfl, rfl, rfl⟩

@[simp] theorem regs_busWrite (s : State) (a : Word) (v : Byte) : (busWrite s a v).regs = s.regs :=
  (busWrite_keeps s a v).1
@[simp] theorem cfg_busWrite (s : State) (a : Word) (v : Byte) : (busWrite s a v).cfg = s.cfg :=
  (busWrite_keeps s a v).2.1
@[simp] theorem cart_busWrite (s : State) (a : Word) (v : Byte) : (busWrite s a v).cart = s.cart :=
  (busWrite_keeps s a v).2.2.1
@[simp] theorem ime_busWrite (s : State) (a : Word) (v : Byte) : (busWrite s a v).ime = s.ime :=
  (busWrite_keeps s a v).2.2.2.1
@[simp] theorem running_busWrite (s : State) (a : Word) (v : Byte) : (busWrite s a v).running = s.running :=
  (busWrite_keeps s a v).2.2.2.2.1
@[simp] theorem cycles_busWrite (s : State) (a : Word) (v : Byte) : (busWrite s a v).cycles = s.cycles :=
  (busWrite_keeps s a v).2.2.2.2.2

/-! ### The stack -/

/-- A push: two bus writes, with SP two lower. -/
theorem push16_eq (s : State) (w : Word) :
    push16 s w =
      (busWrite (busWrite s (s.regs.sp - 1) (hi8 w)) (s.regs.sp - 2) (lo8 w)).set16 .sp (s.regs.sp - 2) := by
  have hsp : s.regs.sp - 1 - 1 = s.regs.sp - 2 := by bv_omega
  have h1 : busWrite (s.set16 .sp (s.regs.sp - 1)) (s.regs.sp - 1) (hi8 w) =
      (busWrite s (s.regs.sp - 1) (hi8 w)).set16 .sp (s.regs.sp - 1) := by
    show busWrite { s with regs := _ } _ _ = _
    rw [busWrite_regs]
    simp [State.set16]
  unfold push16
  simp only [State.regs_set16, Regs.set16, h1, regs_busWrite, hsp]
  show busWrite { busWrite s (s.regs.sp - 1) (hi8 w) with regs := _ } _ _ = _
  rw [busWrite_regs]
  simp [State.set16, Regs.set16]

/-- A pop: the word at SP, with SP two higher. -/
theorem pop16_eq (s : State) :
    pop16 s = (joinBytes (busRead s (s.regs.sp + 1)) (busRead s s.regs.sp), s.set16 .sp (s.regs.sp + 2)) := by
  have hsp : s.regs.sp + 1 + 1 = s.regs.sp + 2 := by bv_omega
  unfold pop16
  simp only [State.regs_set16, Regs.set16, busRead_set16, hsp]
  rfl

end Sys2Proof.Machine
end

