-- ==== Sys2Proof/Laws/PerInstr.lean ====
section
/-!
SUPPORT. Families of statements about every instruction, one lemma per constructor.
-/

namespace Sys2Proof.Laws.EncodedLength

/-- A well-formed instruction is as many bytes long as the table of lengths gives its first byte (30_encoding.md R202,
R216). -/
def Statement (i : Instr) : Prop :=
  i.WellFormed → (encode i).length = instrLength ((encode i).headD 0x00)

theorem ldRR (dst : Reg8) (src : Reg8) : Statement (.ldRR dst src) := by cases dst <;> cases src <;> exact fun _ => rfl
theorem ldRN (dst : Reg8) (n : Byte) : Statement (.ldRN dst n) := by cases dst <;> exact fun _ => rfl
theorem ldRHl (dst : Reg8) : Statement (.ldRHl dst) := by cases dst <;> exact fun _ => rfl
theorem ldHlR (src : Reg8) : Statement (.ldHlR src) := by cases src <;> exact fun _ => rfl
theorem ldHlN (n : Byte) : Statement (.ldHlN n) := fun _ => rfl
theorem ldABc : Statement .ldABc := fun _ => rfl
theorem ldADe : Statement .ldADe := fun _ => rfl
theorem ldBcA : Statement .ldBcA := fun _ => rfl
theorem ldDeA : Statement .ldDeA := fun _ => rfl
theorem ldANn (nn : Word) : Statement (.ldANn nn) := fun _ => rfl
theorem ldNnA (nn : Word) : Statement (.ldNnA nn) := fun _ => rfl
theorem ldhAC : Statement .ldhAC := fun _ => rfl
theorem ldhCA : Statement .ldhCA := fun _ => rfl
theorem ldhAN (n : Byte) : Statement (.ldhAN n) := fun _ => rfl
theorem ldhNA (n : Byte) : Statement (.ldhNA n) := fun _ => rfl
theorem ldAHlDec : Statement .ldAHlDec := fun _ => rfl
theorem ldHlDecA : Statement .ldHlDecA := fun _ => rfl
theorem ldAHlInc : Statement .ldAHlInc := fun _ => rfl
theorem ldHlIncA : Statement .ldHlIncA := fun _ => rfl
theorem ldRrNn (p : Reg16) (nn : Word) : Statement (.ldRrNn p nn) := by cases p <;> exact fun _ => rfl
theorem ldNnSp (nn : Word) : Statement (.ldNnSp nn) := fun _ => rfl
theorem ldSpHl : Statement .ldSpHl := fun _ => rfl
theorem pushRr (p : StackPair) : Statement (.pushRr p) := by cases p <;> exact fun _ => rfl
theorem pushAf : Statement .pushAf := fun _ => rfl
theorem popRr (p : StackPair) : Statement (.popRr p) := by cases p <;> exact fun _ => rfl
theorem popAf : Statement .popAf := fun _ => rfl
theorem addAR (src : Reg8) : Statement (.addAR src) := by cases src <;> exact fun _ => rfl
theorem addAHl : Statement .addAHl := fun _ => rfl
theorem addAN (n : Byte) : Statement (.addAN n) := fun _ => rfl
theorem adcAR (src : Reg8) : Statement (.adcAR src) := by cases src <;> exact fun _ => rfl
theorem adcAHl : Statement .adcAHl := fun _ => rfl
theorem adcAN (n : Byte) : Statement (.adcAN n) := fun _ => rfl
theorem subR (src : Reg8) : Statement (.subR src) := by cases src <;> exact fun _ => rfl
theorem subHl : Statement .subHl := fun _ => rfl
theorem subN (n : Byte) : Statement (.subN n) := fun _ => rfl
theorem sbcAR (src : Reg8) : Statement (.sbcAR src) := by cases src <;> exact fun _ => rfl
theorem sbcAHl : Statement .sbcAHl := fun _ => rfl
theorem sbcAN (n : Byte) : Statement (.sbcAN n) := fun _ => rfl
theorem andR (src : Reg8) : Statement (.andR src) := by cases src <;> exact fun _ => rfl
theorem andHl : Statement .andHl := fun _ => rfl
theorem andN (n : Byte) : Statement (.andN n) := fun _ => rfl
theorem xorR (src : Reg8) : Statement (.xorR src) := by cases src <;> exact fun _ => rfl
theorem xorHl : Statement .xorHl := fun _ => rfl
theorem xorN (n : Byte) : Statement (.xorN n) := fun _ => rfl
theorem orR (src : Reg8) : Statement (.orR src) := by cases src <;> exact fun _ => rfl
theorem orHl : Statement .orHl := fun _ => rfl
theorem orN (n : Byte) : Statement (.orN n) := fun _ => rfl
theorem cpR (src : Reg8) : Statement (.cpR src) := by cases src <;> exact fun _ => rfl
theorem cpHl : Statement .cpHl := fun _ => rfl
theorem cpN (n : Byte) : Statement (.cpN n) := fun _ => rfl
theorem incR (dst : Reg8) : Statement (.incR dst) := by cases dst <;> exact fun _ => rfl
theorem incHl : Statement .incHl := fun _ => rfl
theorem decR (dst : Reg8) : Statement (.decR dst) := by cases dst <;> exact fun _ => rfl
theorem decHl : Statement .decHl := fun _ => rfl
theorem daa : Statement .daa := fun _ => rfl
theorem cpl : Statement .cpl := fun _ => rfl
theorem scf : Statement .scf := fun _ => rfl
theorem ccf : Statement .ccf := fun _ => rfl
theorem addHlRr (p : Reg16) : Statement (.addHlRr p) := by cases p <;> exact fun _ => rfl
theorem incRr (p : Reg16) : Statement (.incRr p) := by cases p <;> exact fun _ => rfl
theorem decRr (p : Reg16) : Statement (.decRr p) := by cases p <;> exact fun _ => rfl
theorem addSpE (e : Byte) : Statement (.addSpE e) := fun _ => rfl
theorem ldHlSpE (e : Byte) : Statement (.ldHlSpE e) := fun _ => rfl
theorem rlca : Statement .rlca := fun _ => rfl
theorem rrca : Statement .rrca := fun _ => rfl
theorem rla : Statement .rla := fun _ => rfl
theorem rra : Statement .rra := fun _ => rfl
theorem jpNn (nn : Word) : Statement (.jpNn nn) := fun _ => rfl
theorem jpCcNn (cc : Cond) (nn : Word) : Statement (.jpCcNn cc nn) := by cases cc <;> exact fun _ => rfl
theorem jpHl : Statement .jpHl := fun _ => rfl
theorem jrE (e : Byte) : Statement (.jrE e) := fun _ => rfl
theorem jrCcE (cc : Cond) (e : Byte) : Statement (.jrCcE cc e) := by cases cc <;> exact fun _ => rfl
theorem callNn (nn : Word) : Statement (.callNn nn) := fun _ => rfl
theorem callCcNn (cc : Cond) (nn : Word) : Statement (.callCcNn cc nn) := by cases cc <;> exact fun _ => rfl
theorem ret : Statement .ret := fun _ => rfl
theorem retCc (cc : Cond) : Statement (.retCc cc) := by cases cc <;> exact fun _ => rfl
theorem reti : Statement .reti := fun _ => rfl
theorem rstT (t : Fin 8) : Statement (.rstT t) := by intro h; clear h; revert t; decide
theorem nop : Statement .nop := fun _ => rfl
theorem halt : Statement .halt := fun _ => rfl
theorem stop (n : Byte) : Statement (.stop n) := fun _ => rfl
theorem di : Statement .di := fun _ => rfl
theorem ei : Statement .ei := fun _ => rfl
theorem prefixCb (op2 : Byte) : Statement (.prefixCb op2) := fun _ => rfl
theorem illegal (op : Byte) : Statement (.illegal op) := by
  intro h
  revert op
  unfold Instr.WellFormed Instr.illFormed illegalOpcodes
  decide +revert

theorem rlcR (z : Reg8) : Statement (.rlcR z) := by cases z <;> exact fun _ => rfl
theorem rlcHl : Statement .rlcHl := fun _ => rfl
theorem rrcR (z : Reg8) : Statement (.rrcR z) := by cases z <;> exact fun _ => rfl
theorem rrcHl : Statement .rrcHl := fun _ => rfl
theorem rlR (z : Reg8) : Statement (.rlR z) := by cases z <;> exact fun _ => rfl
theorem rlHl : Statement .rlHl := fun _ => rfl
theorem rrR (z : Reg8) : Statement (.rrR z) := by cases z <;> exact fun _ => rfl
theorem rrHl : Statement .rrHl := fun _ => rfl
theorem slaR (z : Reg8) : Statement (.slaR z) := by cases z <;> exact fun _ => rfl
theorem slaHl : Statement .slaHl := fun _ => rfl
theorem sraR (z : Reg8) : Statement (.sraR z) := by cases z <;> exact fun _ => rfl
theorem sraHl : Statement .sraHl := fun _ => rfl
theorem swapR (z : Reg8) : Statement (.swapR z) := by cases z <;> exact fun _ => rfl
theorem swapHl : Statement .swapHl := fun _ => rfl
theorem srlR (z : Reg8) : Statement (.srlR z) := by cases z <;> exact fun _ => rfl
theorem srlHl : Statement .srlHl := fun _ => rfl
theorem bitR (b : Fin 8) (z : Reg8) : Statement (.bitR b z) := fun _ => rfl
theorem bitHl (b : Fin 8) : Statement (.bitHl b) := fun _ => rfl
theorem resR (b : Fin 8) (z : Reg8) : Statement (.resR b z) := fun _ => rfl
theorem resHl (b : Fin 8) : Statement (.resHl b) := fun _ => rfl
theorem setR (b : Fin 8) (z : Reg8) : Statement (.setR b z) := fun _ => rfl
theorem setHl (b : Fin 8) : Statement (.setHl b) := fun _ => rfl

end Sys2Proof.Laws.EncodedLength
end

