-- ==== Sys2Proof/Laws/Step.lean ====
section
/-!
SUPPORT. What a step can do, said once: the cases of the fetch and of the step, and the five kinds of change every
instruction is made of.
-/

namespace Sys2Proof.Machine

/-! ### The fetch -/

/-- The length of an instruction is 1, 2 or 3. -/
theorem instrLength_cases (op : Byte) : instrLength op = 1 ∨ instrLength op = 2 ∨ instrLength op = 3 := by
  unfold instrLength
  split
  · exact .inr (.inr rfl)
  · split
    · exact .inr (.inl rfl)
    · exact .inl rfl

/-- The fetch finds a gap of the first table, a gap of the second, or the instruction at pc, with pc past it. -/
theorem fetchInstr_eq (s : State) :
    fetchInstr s =
      if busRead s s.regs.pc ∈ s.cfg.gapsBase then
        .missing .base (busRead s s.regs.pc) s.regs.pc (s.setPc (s.regs.pc + 1))
      else if busRead s s.regs.pc = 0xCB ∧ busRead s (s.regs.pc + 1) ∈ s.cfg.gapsCb then
        .missing .cb (busRead s (s.regs.pc + 1)) s.regs.pc (s.setPc (s.regs.pc + 2))
      else
        .instr (decodeOne (busRead s s.regs.pc) (busRead s (s.regs.pc + 1)) (busRead s (s.regs.pc + 2)))
          (s.setPc (s.regs.pc + .ofNat 16 (instrLength (busRead s s.regs.pc)))) := by
  have h2 : s.regs.pc + 1 + 1 = s.regs.pc + 2 := by bv_omega
  have h3 : s.regs.pc + 2 + 1 = s.regs.pc + 3 := by bv_omega
  unfold fetchInstr fetch8
  simp only [busRead_setPc, State.regs_setPc, h2, h3]
  split
  · rfl
  · split
    · rfl
    · rcases instrLength_cases (busRead s s.regs.pc) with h | h | h <;> rw [h] <;> rfl

/-! ### The kinds of change -/

/-- `t` comes from `s` by changes of five kinds: a register write that leaves the low nibble of F zero if it was, a bus
write, and writes of `ime`, `running` and (upwards) `cycles`. -/
inductive Reaches : State → State → Prop where
  | refl (s : State) : Reaches s s
  | regs {s t : State} (g : Regs) : Reaches s t → (t.regs.f &&& 0x0F = 0 → g.f &&& 0x0F = 0) →
      Reaches s { t with regs := g }
  | bus {s t : State} (a : Word) (v : Byte) : Reaches s t → Reaches s (busWrite t a v)
  | ime {s t : State} (b : Bool) : Reaches s t → Reaches s (t.setIme b)
  | running {s t : State} (b : Bool) : Reaches s t → Reaches s (t.setRunning b)
  | cycles {s t : State} (n : Nat) : Reaches s t → Reaches s (t.addCycles n)

namespace Reaches

variable {s t : State}

theorem set8 (h : Reaches s t) (r : Reg8) (v : Byte) : Reaches s (t.set8 r v) :=
  .regs _ h (by simp)

theorem set16 (h : Reaches s t) (p : Reg16) (w : Word) : Reaches s (t.set16 p w) :=
  .regs _ h (by simp)

theorem setF (h : Reaches s t) (v : Byte) : Reaches s (t.setF v) :=
  .regs _ h (fun _ => by
    show v &&& 0xF0#8 &&& 0x0F#8 = 0#8
    rw [BitVec.and_assoc]
    exact BitVec.and_zero)

theorem setFlags (h : Reaches s t) (fs : FlagSet) : Reaches s (t.setFlags fs) := h.setF _

theorem setPc (h : Reaches s t) (w : Word) : Reaches s (t.setPc w) := .regs _ h id

theorem push16 (h : Reaches s t) (w : Word) : Reaches s (push16 t w) :=
  (Reaches.bus _ _ ((Reaches.bus _ _ (h.set16 .sp _)).set16 .sp _))

theorem pop16 (h : Reaches s t) : Reaches s (pop16 t).2 := (h.set16 .sp _).set16 .sp _

end Reaches

/-- What a result of an instruction is: a next state or the fault, in either case in a state reached from `s`. -/
def ResultReaches (s : State) (r : Result) : Prop :=
  (∃ t, r = .next t ∧ Reaches s t) ∨
  (∃ table op addr t, r = .fault (.unimplementedOpcode table op addr t) ∧ Reaches s t)

theorem ResultReaches.done {s t : State} (h : Reaches s t) (i : Instr) : ResultReaches s (done i t) :=
  .inl ⟨_, rfl, .cycles _ h⟩

theorem ResultReaches.doneTaken {s t : State} (h : Reaches s t) (i : Instr) : ResultReaches s (doneTaken i t) :=
  .inl ⟨_, rfl, .cycles _ h⟩

theorem ResultReaches.raise {s t : State} (h : Reaches s t) (table : OpTable) (op : Byte) (addr : Word) :
    ResultReaches s (raiseUnimplemented table op addr t) :=
  .inr ⟨table, op, addr, _, rfl, .running _ h⟩

section Shapes

variable (i : Instr) (s : State)

theorem load8_reaches (r : Reg8) (v : Byte) : ResultReaches s (load8 i r v s) := .done ((Reaches.refl s).set8 r v) i
theorem store8_reaches (a : Word) (v : Byte) : ResultReaches s (store8 i a v s) := .done (.bus a v (.refl s)) i
theorem alu_reaches (r : Byte × FlagSet) : ResultReaches s (alu i r s) :=
  .done (((Reaches.refl s).set8 .a r.1).setFlags r.2) i
theorem compare_reaches (r : Byte × FlagSet) : ResultReaches s (compare i r s) :=
  .done ((Reaches.refl s).setFlags r.2) i
theorem modify8_reaches (z : Reg8) (r : Byte × FlagSet) : ResultReaches s (modify8 i z r s) :=
  .done (((Reaches.refl s).set8 z r.1).setFlags r.2) i
theorem modifyHl_reaches (r : Byte × FlagSet) : ResultReaches s (modifyHl i r s) :=
  .done ((Reaches.bus s.hl r.1 (.refl s)).setFlags r.2) i

end Shapes

theorem routineCb_reaches (op2 : Byte) (s : State) : ResultReaches s (routineCb op2 s) := by
  unfold routineCb
  simp only
  split
  · split <;> exact modify8_reaches _ _ _ _
  · split <;> exact modifyHl_reaches _ _ _
  · exact .done ((Reaches.refl s).setFlags _) _
  · exact .done ((Reaches.refl s).setFlags _) _
  · exact load8_reaches _ _ _ _
  · exact store8_reaches _ _ _ _
  · exact load8_reaches _ _ _ _
  · exact store8_reaches _ _ _ _

/-- Every instruction answers a next state or the fault, and changes the state in the five ways only. -/
theorem exec_reaches (i : Instr) (s : State) : ResultReaches s (exec i s) := by
  have r := Reaches.refl s
  cases i
  case ldAHlDec => exact .done ((r.set8 _ _).set16 _ _) _
  case ldAHlInc => exact .done ((r.set8 _ _).set16 _ _) _
  case ldHlDecA => exact .done ((Reaches.bus _ _ r).set16 _ _) _
  case ldHlIncA => exact .done ((Reaches.bus _ _ r).set16 _ _) _
  case ldRrNn => exact .done (r.set16 _ _) _
  case ldNnSp => exact .done (.bus _ _ (.bus _ _ r)) _
  case ldSpHl => exact .done (r.set16 _ _) _
  case pushRr => exact .done (r.push16 _) _
  case pushAf => exact .done (r.push16 _) _
  case popRr => exact .done (r.pop16.set16 _ _) _
  case popAf => exact .done ((r.pop16.set8 _ _).setF _) _
  case cpl => exact .done ((r.set8 _ _).setFlags _) _
  case scf => exact .done (r.setFlags _) _
  case ccf => exact .done (r.setFlags _) _
  case addHlRr => exact .done ((r.set16 _ _).setFlags _) _
  case incRr => exact .done (r.set16 _ _) _
  case decRr => exact .done (r.set16 _ _) _
  case addSpE => exact .done ((r.set16 _ _).setFlags _) _
  case ldHlSpE => exact .done ((r.set16 _ _).setFlags _) _
  case bitR => exact .done (r.setFlags _) _
  case bitHl => exact .done (r.setFlags _) _
  case jpNn => exact .done (r.setPc _) _
  case jpHl => exact .done (r.setPc _) _
  case jrE => exact .done (r.setPc _) _
  case callNn => exact .done ((r.push16 _).setPc _) _
  case rstT => exact .done ((r.push16 _).setPc _) _
  case ret => exact .done (r.pop16.setPc _) _
  case reti => exact .done (.ime _ (r.pop16.setPc _)) _
  case jpCcNn cc nn =>
    show ResultReaches s (execJpCcNn cc nn s)
    unfold execJpCcNn
    split
    · exact .doneTaken (r.setPc _) _
    · exact .done r _
  case jrCcE cc e =>
    show ResultReaches s (execJrCcE cc e s)
    unfold execJrCcE
    split
    · exact .doneTaken (r.setPc _) _
    · exact .done r _
  case callCcNn cc nn =>
    show ResultReaches s (execCallCcNn cc nn s)
    unfold execCallCcNn
    split
    · exact .doneTaken ((r.push16 _).setPc _) _
    · exact .done r _
  case retCc cc =>
    show ResultReaches s (execRetCc cc s)
    unfold execRetCc
    simp only
    split
    · exact .doneTaken (r.pop16.setPc _) _
    · exact .done r _
  case nop => exact .done r _
  case halt => exact .done (.running _ r) _
  case stop => exact .done (.running _ r) _
  case di => exact .done (.ime _ r) _
  case ei => exact .done (.ime _ r) _
  case prefixCb op2 =>
    show ResultReaches s (execPrefixCb op2 s)
    unfold execPrefixCb
    split
    · exact .raise r _ _ _
    · exact routineCb_reaches op2 s
  case illegal => exact .raise r _ _ _
  case addAR | addAHl | addAN | adcAR | adcAHl | adcAN | subR | subHl | subN | sbcAR | sbcAHl | sbcAN => exact alu_reaches _ _ _
  case andR | andHl | andN | xorR | xorHl | xorN | orR | orHl | orN => exact alu_reaches _ _ _
  case daa | rlca | rrca | rla | rra => exact alu_reaches _ _ _
  case cpR | cpHl | cpN => exact compare_reaches _ _ _
  case incR | decR | rlcR | rrcR | rlR | rrR | slaR | sraR | swapR | srlR => exact modify8_reaches _ _ _ _
  case incHl | decHl | rlcHl | rrcHl | rlHl | rrHl | slaHl | sraHl | swapHl | srlHl => exact modifyHl_reaches _ _ _
  case ldHlR | ldHlN | ldBcA | ldDeA | ldNnA | ldhCA | ldhNA | resHl | setHl => exact store8_reaches _ _ _ _
  all_goals exact load8_reaches _ _ _ _

/-! ### The step -/

/-- A step of a console that is running: a gap of either table raises the fault, and every other byte at pc runs its
instruction with pc past it. -/
theorem step_running {s : State} (h : s.running = true) :
    step s =
      if busRead s s.regs.pc ∈ s.cfg.gapsBase then
        raiseUnimplemented .base (busRead s s.regs.pc) s.regs.pc (s.setPc (s.regs.pc + 1))
      else if busRead s s.regs.pc = 0xCB ∧ busRead s (s.regs.pc + 1) ∈ s.cfg.gapsCb then
        raiseUnimplemented .cb (busRead s (s.regs.pc + 1)) s.regs.pc (s.setPc (s.regs.pc + 2))
      else
        exec (decodeOne (busRead s s.regs.pc) (busRead s (s.regs.pc + 1)) (busRead s (s.regs.pc + 2)))
          (s.setPc (s.regs.pc + .ofNat 16 (instrLength (busRead s s.regs.pc)))) := by
  unfold step
  rw [if_pos h, fetchInstr_eq]
  by_cases h1 : busRead s s.regs.pc ∈ s.cfg.gapsBase
  · simp only [if_pos h1]
  · by_cases h2 : busRead s s.regs.pc = 0xCB ∧ busRead s (s.regs.pc + 1) ∈ s.cfg.gapsCb
    · simp only [if_neg h1, if_pos h2]
    · simp only [if_neg h1, if_neg h2]

/-- A step of a console that is not running does nothing. -/
theorem step_stopped {s : State} (h : s.running = false) : step s = .next s := by
  unfold step
  rw [h]
  rfl

theorem Reaches.trans {s t u : State} (h : Reaches s t) (k : Reaches t u) : Reaches s u := by
  induction k with
  | refl => exact h
  | regs g _ hg ih => exact .regs g ih hg
  | bus a v _ ih => exact .bus a v ih
  | ime b _ ih => exact .ime b ih
  | running b _ ih => exact .running b ih
  | cycles n _ ih => exact .cycles n ih

theorem ResultReaches.trans {s t : State} {r : Result} (h : Reaches s t) (k : ResultReaches t r) :
    ResultReaches s r := by
  rcases k with ⟨u, rfl, hu⟩ | ⟨table, op, addr, u, rfl, hu⟩
  · exact .inl ⟨u, rfl, h.trans hu⟩
  · exact .inr ⟨table, op, addr, u, rfl, h.trans hu⟩

/-- A step answers a next state or the fault, and changes the state in the five ways only. -/
theorem step_reaches (s : State) : ResultReaches s (step s) := by
  cases h : s.running with
  | false => exact step_stopped h ▸ .inl ⟨s, rfl, .refl s⟩
  | true =>
    rw [step_running h]
    have r := Reaches.refl s
    split
    · exact .raise (r.setPc _) _ _ _
    · split
      · exact .raise (r.setPc _) _ _ _
      · exact .trans (r.setPc _) (exec_reaches _ _)

end Sys2Proof.Machine
end

