-- ==== Sys2Proof/Tests/Slice0.lean ====
section
/-!
SUPPORT. The model's own tests. The expected values of a step are those of the test vectors of 95_test_vectors.md, named
in each docstring, or worked out by hand from the rule; the words of the decode tests are the `encoding` column of
spec/opcode_table.json with the operand codes of 30_encoding.md R205 filled in. The witnesses at the end show that the
hypotheses of the obligations can be met.
-/

set_option maxRecDepth 100000

namespace Sys2Proof.Machine

/-! ### Helpers -/

/-- Bytes at consecutive indices, as a canonical memory. -/
def cellsFrom (a : Nat) (bytes : List Byte) : Memory :=
  ((bytes.zipIdx a).map fun p => (p.2, p.1)).filter (fun c => c.2 ≠ Memory.unlisted)

/-- `Launched` with the default parameters (70_reset_and_hazards.md R572), `bytes` in a ROM of 0x8000 bytes from address
`a`, and pc there. -/
def launch (a : Word) (bytes : List Byte) : State :=
  (State.launched Config.default ⟨[], [], [], []⟩
    { cart := { rom := cellsFrom a.toNat bytes, romLen := 0x8000, cramLen := 0 }, cram := [] }).setPc a

/-- The state with a byte put behind an address. -/
def State.hold (s : State) (a : Word) (v : Byte) : State := placeByte s a v

/-- The next step completes, in a state that passes `check`. -/
abbrev Ends (s : State) (check : State → Bool) : Prop :=
  (match step s with
    | .next t => check t
    | .fault _ => false
    | .refused _ => false) = true

/-! ### Decoding: a word for every constructor, its bits written out from the `encoding` column -/

/-- Exactly these bytes are exactly this instruction, and it is written back as them. -/
abbrev Reads (bytes : List Byte) (i : Instr) : Prop :=
  ((match decode bytes with
    | .ok (j, rest) => decide (j = i ∧ rest = [])
    | .error _ => false) && decide (encode i = bytes)) = true

/-- R250 to R268. -/
theorem test_decode_ld8 :
    Reads [0b01_001_011] (.ldRR .c .e) ∧
    Reads [0b00_010_110, 0x5A] (.ldRN .d 0x5A) ∧
    Reads [0b01_100_110] (.ldRHl .h) ∧
    Reads [0b01110_101] (.ldHlR .l) ∧
    Reads [0b0011_0110, 0x99] (.ldHlN 0x99) ∧
    Reads [0b0000_1010] .ldABc ∧
    Reads [0b0001_1010] .ldADe ∧
    Reads [0b0000_0010] .ldBcA ∧
    Reads [0b0001_0010] .ldDeA ∧
    Reads [0b1111_1010, 0x23, 0xC1] (.ldANn 0xC123) ∧
    Reads [0b1110_1010, 0x23, 0xC1] (.ldNnA 0xC123) ∧
    Reads [0b1111_0010] .ldhAC ∧
    Reads [0b1110_0010] .ldhCA ∧
    Reads [0b1111_0000, 0x44] (.ldhAN 0x44) ∧
    Reads [0b1110_0000, 0x44] (.ldhNA 0x44) ∧
    Reads [0b0011_1010] .ldAHlDec ∧
    Reads [0b0011_0010] .ldHlDecA ∧
    Reads [0b0010_1010] .ldAHlInc ∧
    Reads [0b0010_0010] .ldHlIncA := by decide

/-- R300 to R309. -/
theorem test_decode_ld16_stack :
    Reads [0b00_01_0001, 0x34, 0x12] (.ldRrNn .de 0x1234) ∧
    Reads [0b0000_1000, 0x00, 0xC1] (.ldNnSp 0xC100) ∧
    Reads [0b1111_1001] .ldSpHl ∧
    Reads [0b11_10_0101] (.pushRr .hl) ∧
    Reads [0b1111_0101] .pushAf ∧
    Reads [0b11_00_0001] (.popRr .bc) ∧
    Reads [0b1111_0001] .popAf := by decide

/-- R334 to R365. -/
theorem test_decode_alu8 :
    Reads [0b10000_000] (.addAR .b) ∧
    Reads [0b1000_0110] .addAHl ∧
    Reads [0b1100_0110, 0x20] (.addAN 0x20) ∧
    Reads [0b10001_011] (.adcAR .e) ∧
    Reads [0b1000_1110] .adcAHl ∧
    Reads [0b1100_1110, 0x21] (.adcAN 0x21) ∧
    Reads [0b10010_100] (.subR .h) ∧
    Reads [0b1001_0110] .subHl ∧
    Reads [0b1101_0110, 0x22] (.subN 0x22) ∧
    Reads [0b10011_101] (.sbcAR .l) ∧
    Reads [0b1001_1110] .sbcAHl ∧
    Reads [0b1101_1110, 0x23] (.sbcAN 0x23) ∧
    Reads [0b10100_111] (.andR .a) ∧
    Reads [0b1010_0110] .andHl ∧
    Reads [0b1110_0110, 0x24] (.andN 0x24) ∧
    Reads [0b10101_001] (.xorR .c) ∧
    Reads [0b1010_1110] .xorHl ∧
    Reads [0b1110_1110, 0x25] (.xorN 0x25) ∧
    Reads [0b10110_010] (.orR .d) ∧
    Reads [0b1011_0110] .orHl ∧
    Reads [0b1111_0110, 0x26] (.orN 0x26) ∧
    Reads [0b10111_000] (.cpR .b) ∧
    Reads [0b1011_1110] .cpHl ∧
    Reads [0b1111_1110, 0x27] (.cpN 0x27) ∧
    Reads [0b00_010_100] (.incR .d) ∧
    Reads [0b0011_0100] .incHl ∧
    Reads [0b00_111_101] (.decR .a) ∧
    Reads [0b0011_0101] .decHl ∧
    Reads [0b0010_0111] .daa ∧
    Reads [0b0010_1111] .cpl ∧
    Reads [0b0011_0111] .scf ∧
    Reads [0b0011_1111] .ccf := by decide

/-- R380 to R385. -/
theorem test_decode_alu16 :
    Reads [0b00_11_1001] (.addHlRr .sp) ∧
    Reads [0b00_00_0011] (.incRr .bc) ∧
    Reads [0b00_10_1011] (.decRr .hl) ∧
    Reads [0b1110_1000, 0xFE] (.addSpE 0xFE) ∧
    Reads [0b1111_1000, 0x02] (.ldHlSpE 0x02) := by decide

/-- R401 to R404. -/
theorem test_decode_rotate_a :
    Reads [0b0000_0111] .rlca ∧
    Reads [0b0000_1111] .rrca ∧
    Reads [0b0001_0111] .rla ∧
    Reads [0b0001_1111] .rra := by decide

/-- R451 to R462. -/
theorem test_decode_control :
    Reads [0b1100_0011, 0x50, 0x01] (.jpNn 0x0150) ∧
    Reads [0b110_11_010, 0x00, 0x80] (.jpCcNn .c 0x8000) ∧
    Reads [0b1110_1001] .jpHl ∧
    Reads [0b0001_1000, 0xFB] (.jrE 0xFB) ∧
    Reads [0b001_01_000, 0xFC] (.jrCcE .z 0xFC) ∧
    Reads [0b1100_1101, 0x34, 0x12] (.callNn 0x1234) ∧
    Reads [0b110_10_100, 0x00, 0x40] (.callCcNn .nc 0x4000) ∧
    Reads [0b1100_1001] .ret ∧
    Reads [0b110_00_000] (.retCc .nz) ∧
    Reads [0b1101_1001] .reti ∧
    Reads [0b11_101_111] (.rstT 5) := by decide

/-- R490 to R496; the prefix alone is no instruction (R210). -/
theorem test_decode_misc :
    Reads [0b0000_0000] .nop ∧
    Reads [0b0111_0110] .halt ∧
    Reads [0b0001_0000, 0x00] (.stop 0x00) ∧
    Reads [0b1111_0011] .di ∧
    Reads [0b1111_1011] .ei ∧
    Reads [0b1111_1100] (.illegal 0xFC) := by decide

/-- R405 to R426, after the prefix 0xCB. -/
theorem test_decode_cb :
    Reads [0xCB, 0b00000_000] (.rlcR .b) ∧
    Reads [0xCB, 0b0000_0110] .rlcHl ∧
    Reads [0xCB, 0b00001_001] (.rrcR .c) ∧
    Reads [0xCB, 0b0000_1110] .rrcHl ∧
    Reads [0xCB, 0b00010_010] (.rlR .d) ∧
    Reads [0xCB, 0b0001_0110] .rlHl ∧
    Reads [0xCB, 0b00011_011] (.rrR .e) ∧
    Reads [0xCB, 0b0001_1110] .rrHl ∧
    Reads [0xCB, 0b00100_100] (.slaR .h) ∧
    Reads [0xCB, 0b0010_0110] .slaHl ∧
    Reads [0xCB, 0b00101_101] (.sraR .l) ∧
    Reads [0xCB, 0b0010_1110] .sraHl ∧
    Reads [0xCB, 0b00110_111] (.swapR .a) ∧
    Reads [0xCB, 0b0011_0110] .swapHl ∧
    Reads [0xCB, 0b00111_000] (.srlR .b) ∧
    Reads [0xCB, 0b0011_1110] .srlHl ∧
    Reads [0xCB, 0b01_110_001] (.bitR 6 .c) ∧
    Reads [0xCB, 0b01_001_110] (.bitHl 1) ∧
    Reads [0xCB, 0b10_101_010] (.resR 5 .d) ∧
    Reads [0xCB, 0b10_010_110] (.resHl 2) ∧
    Reads [0xCB, 0b11_100_011] (.setR 4 .e) ∧
    Reads [0xCB, 0b11_011_110] (.setHl 3) := by decide

/-! ### 8-bit loads (vectors L1 to L20) -/

/-- L1. -/
theorem test_ld_r_r :
    Ends ((launch 0x0100 [0x78]) |>.set8 .b 0x12)
      (fun t => t.get8 .a = 0x12 ∧ t.regs.pc = 0x0101 ∧ t.cycles = 1 ∧ t.regs.f = 0xB0) := by decide

/-- L2. -/
theorem test_ld_r_n :
    Ends (launch 0x0100 [0x3E, 0x41]) (fun t => t.get8 .a = 0x41 ∧ t.regs.pc = 0x0102 ∧ t.cycles = 2) := by decide

/-- L3. -/
theorem test_ld_r_hl :
    Ends ((launch 0x0100 [0x46]) |>.set16 .hl 0xC000 |>.hold 0xC000 0x5A)
      (fun t => t.get8 .b = 0x5A ∧ t.cycles = 2) := by decide

/-- L4. -/
theorem test_ld_hl_r :
    Ends ((launch 0x0100 [0x77]) |>.set16 .hl 0xE000 |>.set8 .a 0x77)
      (fun t => busRead t 0xC000 = 0x77 ∧ t.cycles = 2) := by decide

/-- L5. -/
theorem test_ld_hl_n :
    Ends ((launch 0x0100 [0x36, 0x99]) |>.set16 .hl 0xFF80)
      (fun t => busRead t 0xFF80 = 0x99 ∧ t.regs.pc = 0x0102 ∧ t.cycles = 3) := by decide

/-- L6. -/
theorem test_ld_a_bc :
    Ends ((launch 0x0100 [0x0A]) |>.set16 .bc 0xFF0F |>.hold 0xFF0F 0x01)
      (fun t => t.get8 .a = 0xE1 ∧ t.cycles = 2) := by decide

/-- L7. -/
theorem test_ld_a_de :
    Ends ((launch 0x0100 [0x1A]) |>.set16 .de 0xFEA0 |>.set8 .a 0x55) (fun t => t.get8 .a = 0x00) := by decide

/-- By hand from the rule. -/
theorem test_ld_bc_a :
    Ends ((launch 0x0100 [0x02]) |>.set16 .bc 0xC000 |>.set8 .a 0x77)
      (fun t => busRead t 0xC000 = 0x77 ∧ t.cycles = 2) := by decide

/-- L8. -/
theorem test_ld_de_a :
    Ends ((launch 0x0100 [0x12]) |>.set16 .de 0x2000 |>.set8 .a 0x01)
      (fun t => busRead t 0x2000 = 0x00 ∧ t.regs.pc = 0x0101 ∧ t.cycles = 2) := by decide

/-- L9. -/
theorem test_ld_a_nn :
    Ends (launch 0x0100 [0xFA, 0x44, 0xFF])
      (fun t => t.get8 .a = 0x00 ∧ t.regs.pc = 0x0103 ∧ t.cycles = 4) := by decide

/-- L10. -/
theorem test_ld_nn_a :
    Ends ((launch 0x0100 [0xEA, 0x46, 0xFF]) |>.set8 .a 0xC0 |>.hold 0xC005 0x77)
      (fun t => busRead t 0xFF46 = 0xC0 ∧ busRead t 0xFE05 = 0x77 ∧ t.cycles = 4) := by decide

/-- L11. -/
theorem test_ldh_a_c :
    Ends ((launch 0x0100 [0xF2]) |>.set8 .c 0x41 |>.hold 0xFF41 0x05)
      (fun t => t.get8 .a = 0x85 ∧ t.cycles = 2) := by decide

/-- L12. -/
theorem test_ldh_c_a :
    Ends ((launch 0x0100 [0xE2]) |>.set8 .c 0x04 |>.set8 .a 0x55)
      (fun t => busRead t 0xFF04 = 0x00 ∧ t.cycles = 2) := by decide

/-- L13. -/
theorem test_ldh_a_n :
    Ends (launch 0x0100 [0xF0, 0x0F]) (fun t => t.get8 .a = 0xE1 ∧ t.cycles = 3) := by decide

/-- L14. -/
theorem test_ldh_n_a :
    Ends ((launch 0x0100 [0xE0, 0x02]) |>.set8 .a 0x80 |>.hold 0xFF01 0x41)
      (fun t => t.serialOut = [0x41] ∧ busRead t 0xFF02 = 0x00 ∧ busRead t 0xFF0F = 0xE9 ∧ t.cycles = 3) := by decide

/-- L15. -/
theorem test_ld_a_hl_dec :
    Ends ((launch 0x0100 [0x3A]) |>.set16 .hl 0xC001 |>.hold 0xC001 0x10)
      (fun t => t.get8 .a = 0x10 ∧ t.get16 .hl = 0xC000 ∧ t.cycles = 2) := by decide

/-- L16. -/
theorem test_ld_hl_dec_a :
    Ends ((launch 0x0100 [0x32]) |>.set16 .hl 0x9FFF |>.set8 .a 0x00 |>.hold 0x9FFF 0x33)
      (fun t => busRead t 0x9FFF = 0x00 ∧ t.get16 .hl = 0x9FFE) := by decide

/-- L17. -/
theorem test_ld_a_hl_inc :
    Ends ((launch 0x0100 [0x2A]) |>.set16 .hl 0xFFFF |>.hold 0xFFFF 0x1F)
      (fun t => t.get8 .a = 0x1F ∧ t.get16 .hl = 0x0000) := by decide

/-- L18. -/
theorem test_ld_hl_inc_a :
    Ends ((launch 0x0100 [0x22]) |>.set16 .hl 0xC000 |>.set8 .a 0xAB)
      (fun t => busRead t 0xC000 = 0xAB ∧ t.get16 .hl = 0xC001) := by decide

/-- L19. -/
theorem test_pc_wraps :
    Ends ((launch 0x0100 []) |>.setPc 0xFFFF |>.hold 0xFFFF 0x3E |>.hold 0x0000 0x77)
      (fun t => t.get8 .a = 0x77 ∧ t.regs.pc = 0x0001 ∧ t.cycles = 2) := by decide

/-! ### 16-bit loads and the stack (vectors L20, K1 to K11) -/

/-- L20, K1. -/
theorem test_ld_rr_nn :
    Ends (launch 0x0100 [0x21, 0x34, 0x12])
      (fun t => t.get8 .h = 0x12 ∧ t.get8 .l = 0x34 ∧ t.cycles = 3) ∧
    Ends ((launch 0x0100 [0x31, 0xFE, 0xFF]) |>.set16 .sp 0x0000)
      (fun t => t.get16 .sp = 0xFFFE ∧ t.cycles = 3) := by decide

/-- K2, K3. -/
theorem test_ld_nn_sp :
    Ends ((launch 0x0100 [0x08, 0x00, 0xC1]) |>.set16 .sp 0xFFF8)
      (fun t => busRead t 0xC100 = 0xF8 ∧ busRead t 0xC101 = 0xFF ∧ t.cycles = 5) ∧
    Ends ((launch 0x0100 [0x08, 0xFF, 0xDF]) |>.set16 .sp 0x1234)
      (fun t => busRead t 0xDFFF = 0x34 ∧ busRead t 0xC000 = 0x12) := by decide

/-- K4. -/
theorem test_ld_sp_hl :
    Ends ((launch 0x0100 [0xF9]) |>.set16 .hl 0xD000)
      (fun t => t.get16 .sp = 0xD000 ∧ t.cycles = 2 ∧ t.regs.f = 0xB0) := by decide

/-- K5, K9, K11. -/
theorem test_push_rr :
    Ends ((launch 0x0100 [0xC5]) |>.set16 .sp 0xFFFE |>.set16 .bc 0x1234)
      (fun t => busRead t 0xFFFD = 0x12 ∧ busRead t 0xFFFC = 0x34 ∧ t.get16 .sp = 0xFFFC ∧ t.cycles = 4) ∧
    Ends ((launch 0x0100 [0xC5]) |>.set16 .sp 0x0000 |>.set16 .bc 0x1234)
      (fun t => busRead t 0xFFFF = 0x12 ∧ busRead t 0xFFFE = 0x34 ∧ t.get16 .sp = 0xFFFE) ∧
    Ends ((launch 0x0100 [0xE5]) |>.set16 .sp 0x8000 |>.set16 .hl 0xBEEF)
      (fun t => busRead t 0x7FFF = 0x00 ∧ busRead t 0x7FFE = 0x00 ∧ t.get16 .sp = 0x7FFE) := by decide

/-- K6. -/
theorem test_push_af :
    Ends ((launch 0x0100 [0xF5]) |>.set16 .sp 0xD000 |>.set8 .a 0x01 |>.setF 0xB0)
      (fun t => busRead t 0xCFFF = 0x01 ∧ busRead t 0xCFFE = 0xB0 ∧ t.get16 .sp = 0xCFFE) := by decide

/-- K7, K10. -/
theorem test_pop_rr :
    Ends ((launch 0x0100 [0xD1]) |>.set16 .sp 0xFFFC |>.hold 0xFFFC 0x34 |>.hold 0xFFFD 0x12)
      (fun t => t.get8 .d = 0x12 ∧ t.get8 .e = 0x34 ∧ t.get16 .sp = 0xFFFE ∧ t.cycles = 3) ∧
    Ends ((launch 0x0100 [0xD1]) |>.set16 .sp 0xFFFF |>.hold 0xFFFF 0x5F |>.hold 0x0000 0x9A)
      (fun t => t.get8 .e = 0x5F ∧ t.get8 .d = 0x9A ∧ t.get16 .sp = 0x0001) := by decide

/-- K8. -/
theorem test_pop_af :
    Ends ((launch 0x0100 [0xF1]) |>.set16 .sp 0xC000 |>.hold 0xC000 0x5F |>.hold 0xC001 0x9A)
      (fun t => t.get8 .a = 0x9A ∧ t.regs.f = 0x50 ∧ t.get16 .sp = 0xC002) := by decide

/-- B46. -/
theorem test_push_order :
    Ends ((launch 0x0100 [0xC5]) |>.set16 .sp 0xFF47 |>.set16 .bc 0xC055 |>.hold 0xC000 0x11 |>.hold 0xC09F 0x22)
      (fun t => busRead t 0xFE00 = 0x11 ∧ busRead t 0xFE9F = 0x22 ∧ busRead t 0xFF46 = 0xC0 ∧
        busRead t 0xFF45 = 0x55 ∧ t.get16 .sp = 0xFF45 ∧ t.cycles = 4) := by decide

/-! ### 8-bit arithmetic and logic (vectors A1 to A64, B47) -/

/-- A1, A2, A3. -/
theorem test_add :
    Ends ((launch 0x0100 [0x80]) |>.set8 .a 0x3A |>.set8 .b 0xC6 |>.setF 0x00)
      (fun t => t.get8 .a = 0x00 ∧ t.regs.f = 0xB0) ∧
    Ends ((launch 0x0100 [0x86]) |>.set8 .a 0x0F |>.set16 .hl 0xC000 |>.hold 0xC000 0x01 |>.setF 0x00)
      (fun t => t.get8 .a = 0x10 ∧ t.regs.f = 0x20 ∧ t.cycles = 2) ∧
    Ends ((launch 0x0100 [0xC6, 0x20]) |>.set8 .a 0xF0 |>.setF 0x00)
      (fun t => t.get8 .a = 0x10 ∧ t.regs.f = 0x10 ∧ t.cycles = 2) := by decide

/-- A4, A5, A6, A7. -/
theorem test_adc :
    Ends ((launch 0x0100 [0x8B]) |>.set8 .a 0xE1 |>.set8 .e 0x0F |>.setF 0x10)
      (fun t => t.get8 .a = 0xF1 ∧ t.regs.f = 0x20) ∧
    Ends ((launch 0x0100 [0x8E]) |>.set8 .a 0xE1 |>.set16 .hl 0xC000 |>.hold 0xC000 0x1E |>.setF 0x10)
      (fun t => t.get8 .a = 0x00 ∧ t.regs.f = 0xB0) ∧
    Ends ((launch 0x0100 [0xCE, 0xFF]) |>.set8 .a 0x00 |>.setF 0x10)
      (fun t => t.get8 .a = 0x00 ∧ t.regs.f = 0xB0) ∧
    Ends ((launch 0x0100 [0xCE, 0x0F]) |>.set8 .a 0x00 |>.setF 0x10)
      (fun t => t.get8 .a = 0x10 ∧ t.regs.f = 0x20) := by decide

/-- A9, A10, A11. -/
theorem test_sub :
    Ends ((launch 0x0100 [0x93]) |>.set8 .a 0x3E |>.set8 .e 0x3E |>.setF 0x00)
      (fun t => t.get8 .a = 0x00 ∧ t.regs.f = 0xC0) ∧
    Ends ((launch 0x0100 [0x96]) |>.set8 .a 0x3E |>.set16 .hl 0xC000 |>.hold 0xC000 0x40)
      (fun t => t.get8 .a = 0xFE ∧ t.regs.f = 0x50) ∧
    Ends ((launch 0x0100 [0xD6, 0x0F]) |>.set8 .a 0x3E) (fun t => t.get8 .a = 0x2F ∧ t.regs.f = 0x60) := by decide

/-- A13, A14, A16, A18. -/
theorem test_sbc :
    Ends ((launch 0x0100 [0x9C]) |>.set8 .a 0x3B |>.set8 .h 0x2A |>.setF 0x10)
      (fun t => t.get8 .a = 0x10 ∧ t.regs.f = 0x40) ∧
    Ends ((launch 0x0100 [0x9E]) |>.set8 .a 0x3B |>.set16 .hl 0xC000 |>.hold 0xC000 0x4F |>.setF 0x10)
      (fun t => t.get8 .a = 0xEB ∧ t.regs.f = 0x70) ∧
    Ends ((launch 0x0100 [0xDE, 0xFF]) |>.set8 .a 0x00 |>.setF 0x10)
      (fun t => t.get8 .a = 0x00 ∧ t.regs.f = 0xF0) ∧
    Ends ((launch 0x0100 [0xDE, 0x0F]) |>.set8 .a 0x10 |>.setF 0x10)
      (fun t => t.get8 .a = 0x00 ∧ t.regs.f = 0xE0) := by decide

/-- A20, A21, A22. -/
theorem test_cp :
    Ends ((launch 0x0100 [0xB8]) |>.set8 .a 0x3C |>.set8 .b 0x2F)
      (fun t => t.get8 .a = 0x3C ∧ t.regs.f = 0x60) ∧
    Ends ((launch 0x0100 [0xBE]) |>.set8 .a 0x3C |>.set16 .hl 0xC000 |>.hold 0xC000 0x40)
      (fun t => t.get8 .a = 0x3C ∧ t.regs.f = 0x50) ∧
    Ends ((launch 0x0100 [0xFE, 0x3C]) |>.set8 .a 0x3C) (fun t => t.get8 .a = 0x3C ∧ t.regs.f = 0xC0) := by decide

/-- A23, A24, A25. -/
theorem test_and :
    Ends ((launch 0x0100 [0xA5]) |>.set8 .a 0x5A |>.set8 .l 0x3F)
      (fun t => t.get8 .a = 0x1A ∧ t.regs.f = 0x20) ∧
    Ends ((launch 0x0100 [0xE6, 0x38]) |>.set8 .a 0x5A) (fun t => t.get8 .a = 0x18 ∧ t.regs.f = 0x20) ∧
    Ends ((launch 0x0100 [0xA6]) |>.set8 .a 0x5A |>.set16 .hl 0xC000)
      (fun t => t.get8 .a = 0x00 ∧ t.regs.f = 0xA0) := by decide

/-- A26, A27; the rest by hand from the rule. -/
theorem test_xor :
    Ends ((launch 0x0100 [0xA8]) |>.set8 .a 0xFF |>.set8 .b 0x0F |>.setF 0xF0)
      (fun t => t.get8 .a = 0xF0 ∧ t.regs.f = 0x00) ∧
    Ends ((launch 0x0100 [0xAF]) |>.set8 .a 0x42 |>.setF 0xF0)
      (fun t => t.get8 .a = 0x00 ∧ t.regs.f = 0x80) ∧
    Ends ((launch 0x0100 [0xAE]) |>.set8 .a 0xFF |>.set16 .hl 0xC000 |>.hold 0xC000 0x0F |>.setF 0xF0)
      (fun t => t.get8 .a = 0xF0 ∧ t.regs.f = 0x00 ∧ t.cycles = 2) ∧
    Ends ((launch 0x0100 [0xEE, 0x0F]) |>.set8 .a 0xFF |>.setF 0xF0)
      (fun t => t.get8 .a = 0xF0 ∧ t.regs.f = 0x00 ∧ t.cycles = 2) := by decide

/-- A28, A29; the rest by hand from the rule. -/
theorem test_or :
    Ends ((launch 0x0100 [0xB7]) |>.set8 .a 0x5A |>.setF 0xF0)
      (fun t => t.get8 .a = 0x5A ∧ t.regs.f = 0x00) ∧
    Ends ((launch 0x0100 [0xF6, 0x00]) |>.set8 .a 0x00) (fun t => t.get8 .a = 0x00 ∧ t.regs.f = 0x80) ∧
    Ends ((launch 0x0100 [0xB6]) |>.set8 .a 0x50 |>.set16 .hl 0xC000 |>.hold 0xC000 0x0A |>.setF 0xF0)
      (fun t => t.get8 .a = 0x5A ∧ t.regs.f = 0x00 ∧ t.cycles = 2) := by decide

/-- A30, A32, A37, B47. -/
theorem test_inc :
    Ends ((launch 0x0100 [0x04]) |>.set8 .b 0xFF |>.setF 0x10)
      (fun t => t.get8 .b = 0x00 ∧ t.regs.f = 0xB0) ∧
    Ends ((launch 0x0100 [0x3C]) |>.set8 .a 0x0F |>.setF 0x00)
      (fun t => t.get8 .a = 0x10 ∧ t.regs.f = 0x20) ∧
    Ends ((launch 0x0100 [0x34]) |>.set16 .hl 0xC000 |>.hold 0xC000 0x0F |>.setF 0x00)
      (fun t => busRead t 0xC000 = 0x10 ∧ t.regs.f = 0x20 ∧ t.cycles = 3) ∧
    Ends ((launch 0x0100 [0x34]) |>.set16 .hl 0xFF04 |>.setF 0x10)
      (fun t => busRead t 0xFF04 = 0x00 ∧ t.regs.f = 0x10 ∧ t.cycles = 3) := by decide

/-- A33, A36, A38. -/
theorem test_dec :
    Ends ((launch 0x0100 [0x0D]) |>.set8 .c 0x00 |>.setF 0x00)
      (fun t => t.get8 .c = 0xFF ∧ t.regs.f = 0x60) ∧
    Ends ((launch 0x0100 [0x3D]) |>.set8 .a 0x01 |>.setF 0x00)
      (fun t => t.get8 .a = 0x00 ∧ t.regs.f = 0xC0) ∧
    Ends ((launch 0x0100 [0x35]) |>.set16 .hl 0xFF80 |>.hold 0xFF80 0x01 |>.setF 0x00)
      (fun t => busRead t 0xFF80 = 0x00 ∧ t.regs.f = 0xC0 ∧ t.cycles = 3) := by decide

/-- A39, A40, A41. -/
theorem test_cpl_scf_ccf :
    Ends ((launch 0x0100 [0x2F]) |>.set8 .a 0x35 |>.setF 0x00)
      (fun t => t.get8 .a = 0xCA ∧ t.regs.f = 0x60) ∧
    Ends ((launch 0x0100 [0x37]) |>.setF 0xE0) (fun t => t.regs.f = 0x90) ∧
    Ends ((launch 0x0100 [0x3F]) |>.setF 0xF0) (fun t => t.regs.f = 0x80) ∧
    Ends ((launch 0x0100 [0x3F]) |>.setF 0x00) (fun t => t.regs.f = 0x10) := by decide

/-- A50, A54, A57, A59. -/
theorem test_daa_after_add :
    Ends ((launch 0x0100 [0x27]) |>.set8 .a 0x7D |>.setF 0x00)
      (fun t => t.get8 .a = 0x83 ∧ t.regs.f = 0x00) ∧
    Ends ((launch 0x0100 [0x27]) |>.set8 .a 0x9A |>.setF 0x00)
      (fun t => t.get8 .a = 0x00 ∧ t.regs.f = 0x90) ∧
    Ends ((launch 0x0100 [0x27]) |>.set8 .a 0xFF |>.setF 0x00)
      (fun t => t.get8 .a = 0x65 ∧ t.regs.f = 0x10) ∧
    Ends ((launch 0x0100 [0x27]) |>.set8 .a 0x00 |>.setF 0x20)
      (fun t => t.get8 .a = 0x06 ∧ t.regs.f = 0x00) := by decide

/-- A51, A60, A62, A64. -/
theorem test_daa_after_sub :
    Ends ((launch 0x0100 [0x27]) |>.set8 .a 0x4B |>.setF 0x60)
      (fun t => t.get8 .a = 0x45 ∧ t.regs.f = 0x40) ∧
    Ends ((launch 0x0100 [0x27]) |>.set8 .a 0x00 |>.setF 0x70)
      (fun t => t.get8 .a = 0x9A ∧ t.regs.f = 0x50) ∧
    Ends ((launch 0x0100 [0x27]) |>.set8 .a 0xFA |>.setF 0x40)
      (fun t => t.get8 .a = 0xFA ∧ t.regs.f = 0x40) ∧
    Ends ((launch 0x0100 [0x27]) |>.set8 .a 0x9F |>.setF 0x50)
      (fun t => t.get8 .a = 0x3F ∧ t.regs.f = 0x50) := by decide

/-! ### 16-bit arithmetic (vectors W1 to W15) -/

/-- W1, W2, W3, W4. -/
theorem test_add_hl_rr :
    Ends ((launch 0x0100 [0x09]) |>.set16 .hl 0x8A23 |>.set16 .bc 0x0605 |>.setF 0x00)
      (fun t => t.get16 .hl = 0x9028 ∧ t.regs.f = 0x20 ∧ t.cycles = 2) ∧
    Ends ((launch 0x0100 [0x29]) |>.set16 .hl 0x8A23 |>.setF 0x00)
      (fun t => t.get16 .hl = 0x1446 ∧ t.regs.f = 0x30) ∧
    Ends ((launch 0x0100 [0x19]) |>.set16 .hl 0xFFFF |>.set16 .de 0x0001 |>.setF 0xC0)
      (fun t => t.get16 .hl = 0x0000 ∧ t.regs.f = 0xB0) ∧
    Ends ((launch 0x0100 [0x39]) |>.set16 .hl 0x0FFF |>.set16 .sp 0x0001 |>.setF 0x80)
      (fun t => t.get16 .hl = 0x1000 ∧ t.regs.f = 0xA0) := by decide

/-- W5, W6. -/
theorem test_inc_rr :
    Ends ((launch 0x0100 [0x03]) |>.set16 .bc 0xFFFF |>.setF 0x00)
      (fun t => t.get16 .bc = 0x0000 ∧ t.regs.f = 0x00 ∧ t.cycles = 2) ∧
    Ends ((launch 0x0100 [0x13]) |>.set16 .de 0x235F) (fun t => t.get16 .de = 0x2360) := by decide

/-- W7, W8. -/
theorem test_dec_rr :
    Ends ((launch 0x0100 [0x2B]) |>.set16 .hl 0x1000) (fun t => t.get16 .hl = 0x0FFF) ∧
    Ends ((launch 0x0100 [0x3B]) |>.set16 .sp 0x0000 |>.setF 0xF0)
      (fun t => t.get16 .sp = 0xFFFF ∧ t.regs.f = 0xF0) := by decide

/-- W9, W11, W12. -/
theorem test_add_sp_e :
    Ends ((launch 0x0100 [0xE8, 0x02]) |>.set16 .sp 0xFFF8 |>.setF 0xF0)
      (fun t => t.get16 .sp = 0xFFFA ∧ t.regs.f = 0x00 ∧ t.cycles = 4) ∧
    Ends ((launch 0x0100 [0xE8, 0xFF]) |>.set16 .sp 0x0001 |>.setF 0x00)
      (fun t => t.get16 .sp = 0x0000 ∧ t.regs.f = 0x30) ∧
    Ends ((launch 0x0100 [0xE8, 0x80]) |>.set16 .sp 0x0100 |>.setF 0x00)
      (fun t => t.get16 .sp = 0x0080 ∧ t.regs.f = 0x00) := by decide

/-- W13, W15. -/
theorem test_ld_hl_sp_e :
    Ends ((launch 0x0100 [0xF8, 0x08]) |>.set16 .sp 0xFFF8 |>.setF 0x00)
      (fun t => t.get16 .hl = 0x0000 ∧ t.get16 .sp = 0xFFF8 ∧ t.regs.f = 0x30 ∧ t.cycles = 3) ∧
    Ends ((launch 0x0100 [0xF8, 0x01]) |>.set16 .sp 0x00FF |>.setF 0x80)
      (fun t => t.get16 .hl = 0x0100 ∧ t.regs.f = 0x30) := by decide

/-! ### Rotates, shifts and bit operations (vectors T1 to T28) -/

/-- T1, T2, T3, T4, T5. -/
theorem test_rotate_a :
    Ends ((launch 0x0100 [0x07]) |>.set8 .a 0x85 |>.setF 0xF0)
      (fun t => t.get8 .a = 0x0B ∧ t.regs.f = 0x10) ∧
    Ends ((launch 0x0100 [0x0F]) |>.set8 .a 0x3B |>.setF 0x00)
      (fun t => t.get8 .a = 0x9D ∧ t.regs.f = 0x10) ∧
    Ends ((launch 0x0100 [0x17]) |>.set8 .a 0x95 |>.setF 0x10)
      (fun t => t.get8 .a = 0x2B ∧ t.regs.f = 0x10) ∧
    Ends ((launch 0x0100 [0x1F]) |>.set8 .a 0x81 |>.setF 0x00)
      (fun t => t.get8 .a = 0x40 ∧ t.regs.f = 0x10) ∧
    Ends ((launch 0x0100 [0x07]) |>.set8 .a 0x00 |>.setF 0x00)
      (fun t => t.get8 .a = 0x00 ∧ t.regs.f = 0x00) := by decide

/-- T6, T7. -/
theorem test_rlc :
    Ends ((launch 0x0100 [0xCB, 0x00]) |>.set8 .b 0x85 |>.setF 0x00)
      (fun t => t.get8 .b = 0x0B ∧ t.regs.f = 0x10 ∧ t.regs.pc = 0x0102 ∧ t.cycles = 2) ∧
    Ends ((launch 0x0100 [0xCB, 0x06]) |>.set16 .hl 0xC000)
      (fun t => busRead t 0xC000 = 0x00 ∧ t.regs.f = 0x80 ∧ t.cycles = 4) := by decide

/-- T8, T9. -/
theorem test_rrc :
    Ends ((launch 0x0100 [0xCB, 0x09]) |>.set8 .c 0x01) (fun t => t.get8 .c = 0x80 ∧ t.regs.f = 0x10) ∧
    Ends ((launch 0x0100 [0xCB, 0x0E]) |>.set16 .hl 0xC000 |>.hold 0xC000 0x02)
      (fun t => busRead t 0xC000 = 0x01 ∧ t.regs.f = 0x00) := by decide

/-- T10, T11. -/
theorem test_rl :
    Ends ((launch 0x0100 [0xCB, 0x15]) |>.set8 .l 0x80 |>.setF 0x00)
      (fun t => t.get8 .l = 0x00 ∧ t.regs.f = 0x90) ∧
    Ends ((launch 0x0100 [0xCB, 0x16]) |>.set16 .hl 0xC000 |>.hold 0xC000 0x11 |>.setF 0x00)
      (fun t => busRead t 0xC000 = 0x22 ∧ t.regs.f = 0x00) := by decide

/-- T12, T13. -/
theorem test_rr :
    Ends ((launch 0x0100 [0xCB, 0x1F]) |>.set8 .a 0x01 |>.setF 0x00)
      (fun t => t.get8 .a = 0x00 ∧ t.regs.f = 0x90) ∧
    Ends ((launch 0x0100 [0xCB, 0x1E]) |>.set16 .hl 0xC000 |>.hold 0xC000 0x8A |>.setF 0x00)
      (fun t => busRead t 0xC000 = 0x45 ∧ t.regs.f = 0x00) := by decide

/-- T14, T15. -/
theorem test_sla :
    Ends ((launch 0x0100 [0xCB, 0x22]) |>.set8 .d 0x80) (fun t => t.get8 .d = 0x00 ∧ t.regs.f = 0x90) ∧
    Ends ((launch 0x0100 [0xCB, 0x26]) |>.set16 .hl 0xC000 |>.hold 0xC000 0xFF)
      (fun t => busRead t 0xC000 = 0xFE ∧ t.regs.f = 0x10) := by decide

/-- T16, T17. -/
theorem test_sra :
    Ends ((launch 0x0100 [0xCB, 0x2F]) |>.set8 .a 0x8A) (fun t => t.get8 .a = 0xC5 ∧ t.regs.f = 0x00) ∧
    Ends ((launch 0x0100 [0xCB, 0x2E]) |>.set16 .hl 0xC000 |>.hold 0xC000 0x01)
      (fun t => busRead t 0xC000 = 0x00 ∧ t.regs.f = 0x90) := by decide

/-- T18, T19. -/
theorem test_swap :
    Ends ((launch 0x0100 [0xCB, 0x37]) |>.set8 .a 0xF1 |>.setF 0xF0)
      (fun t => t.get8 .a = 0x1F ∧ t.regs.f = 0x00) ∧
    Ends ((launch 0x0100 [0xCB, 0x36]) |>.set16 .hl 0xC000 |>.hold 0xC000 0xF0)
      (fun t => busRead t 0xC000 = 0x0F ∧ t.regs.f = 0x00) := by decide

/-- T20, T21. -/
theorem test_srl :
    Ends ((launch 0x0100 [0xCB, 0x3F]) |>.set8 .a 0x01) (fun t => t.get8 .a = 0x00 ∧ t.regs.f = 0x90) ∧
    Ends ((launch 0x0100 [0xCB, 0x3E]) |>.set16 .hl 0xC000 |>.hold 0xC000 0xFF)
      (fun t => busRead t 0xC000 = 0x7F ∧ t.regs.f = 0x10) := by decide

/-- T22, T23, T24. -/
theorem test_bit :
    Ends ((launch 0x0100 [0xCB, 0x7F]) |>.set8 .a 0x80 |>.setF 0x00)
      (fun t => t.get8 .a = 0x80 ∧ t.regs.f = 0x20) ∧
    Ends ((launch 0x0100 [0xCB, 0x65]) |>.set8 .l 0xEF |>.setF 0x00)
      (fun t => t.get8 .l = 0xEF ∧ t.regs.f = 0xA0) ∧
    Ends ((launch 0x0100 [0xCB, 0x46]) |>.set16 .hl 0xC000 |>.hold 0xC000 0xFE |>.setF 0x10)
      (fun t => busRead t 0xC000 = 0xFE ∧ t.regs.f = 0xB0 ∧ t.cycles = 3) := by decide

/-- T25, T26. -/
theorem test_res :
    Ends ((launch 0x0100 [0xCB, 0xBF]) |>.set8 .a 0x80 |>.setF 0x00)
      (fun t => t.get8 .a = 0x00 ∧ t.regs.f = 0x00) ∧
    Ends ((launch 0x0100 [0xCB, 0x9E]) |>.set16 .hl 0xC000 |>.hold 0xC000 0xFF)
      (fun t => busRead t 0xC000 = 0xF7 ∧ t.cycles = 4) := by decide

/-- T27, T28. -/
theorem test_set :
    Ends ((launch 0x0100 [0xCB, 0xFD]) |>.set8 .l 0x3B) (fun t => t.get8 .l = 0xBB ∧ t.regs.f = 0xB0) ∧
    Ends ((launch 0x0100 [0xCB, 0xDE]) |>.set16 .hl 0xC000)
      (fun t => busRead t 0xC000 = 0x08 ∧ t.cycles = 4) := by decide

/-! ### Control transfer (vectors J1 to J20) -/

/-- J1, J2, J3, J8. -/
theorem test_jp :
    Ends (launch 0x0100 [0xC3, 0x50, 0x01]) (fun t => t.regs.pc = 0x0150 ∧ t.cycles = 4) ∧
    Ends ((launch 0x0150 [0xCA, 0x00, 0x80]) |>.setF 0x80)
      (fun t => t.regs.pc = 0x8000 ∧ t.cycles = 4) ∧
    Ends ((launch 0x0150 [0xCA, 0x00, 0x80]) |>.setF 0x00)
      (fun t => t.regs.pc = 0x0153 ∧ t.cycles = 3) ∧
    Ends ((launch 0x0100 [0xE9]) |>.set16 .hl 0xC123) (fun t => t.regs.pc = 0xC123 ∧ t.cycles = 1) := by decide

/-- J4, J5, J6, J7. -/
theorem test_jr :
    Ends (launch 0x0150 [0x18, 0x05]) (fun t => t.regs.pc = 0x0157 ∧ t.cycles = 3) ∧
    Ends (launch 0x0150 [0x18, 0xFB]) (fun t => t.regs.pc = 0x014D ∧ t.cycles = 3) ∧
    Ends ((launch 0x0154 [0x20, 0xFC]) |>.setF 0x00) (fun t => t.regs.pc = 0x0152 ∧ t.cycles = 3) ∧
    Ends ((launch 0x0154 [0x20, 0xFC]) |>.setF 0x80) (fun t => t.regs.pc = 0x0156 ∧ t.cycles = 2) := by decide

/-- J20. -/
theorem test_jr_wraps :
    Ends ((launch 0x0100 []) |>.setPc 0xFFFD |>.hold 0xFFFD 0x18 |>.hold 0xFFFE 0x10)
      (fun t => t.regs.pc = 0x000F ∧ t.cycles = 3) := by decide

/-- J9, J10, J11. -/
theorem test_call :
    Ends ((launch 0x0200 [0xCD, 0x34, 0x12]) |>.set16 .sp 0xFFFE)
      (fun t => busRead t 0xFFFD = 0x02 ∧ busRead t 0xFFFC = 0x03 ∧ t.get16 .sp = 0xFFFC ∧
        t.regs.pc = 0x1234 ∧ t.cycles = 6) ∧
    Ends ((launch 0x0200 [0xDC, 0x00, 0x40]) |>.setF 0x10 |>.set16 .sp 0xD000)
      (fun t => busRead t 0xCFFF = 0x02 ∧ busRead t 0xCFFE = 0x03 ∧ t.get16 .sp = 0xCFFE ∧
        t.regs.pc = 0x4000 ∧ t.cycles = 6) ∧
    Ends ((launch 0x0200 [0xDC, 0x00, 0x40]) |>.setF 0x00 |>.set16 .sp 0xD000)
      (fun t => t.regs.pc = 0x0203 ∧ t.get16 .sp = 0xD000 ∧ busRead t 0xCFFF = 0x00 ∧ t.cycles = 3) := by decide

/-- J12, J13, J14. -/
theorem test_ret :
    Ends ((launch 0x0100 [0xC9]) |>.set16 .sp 0xFFFC |>.hold 0xFFFC 0x03 |>.hold 0xFFFD 0x02)
      (fun t => t.regs.pc = 0x0203 ∧ t.get16 .sp = 0xFFFE ∧ t.cycles = 4) ∧
    Ends ((launch 0x0100 [0xC8]) |>.setF 0x80 |>.set16 .sp 0xCFFE |>.hold 0xCFFE 0x03 |>.hold 0xCFFF 0x02)
      (fun t => t.regs.pc = 0x0203 ∧ t.get16 .sp = 0xD000 ∧ t.cycles = 5) ∧
    Ends ((launch 0x0100 [0xC0]) |>.setF 0x80 |>.set16 .sp 0xCFFE |>.hold 0xCFFE 0x03 |>.hold 0xCFFF 0x02)
      (fun t => t.regs.pc = 0x0101 ∧ t.get16 .sp = 0xCFFE ∧ t.cycles = 2) := by decide

/-- J15. -/
theorem test_reti :
    Ends ((launch 0x0100 [0xD9]) |>.set16 .sp 0xFFFC |>.hold 0xFFFC 0x03 |>.hold 0xFFFD 0x02)
      (fun t => t.regs.pc = 0x0203 ∧ t.get16 .sp = 0xFFFE ∧ t.ime = true ∧ t.cycles = 4) := by decide

/-- J16. -/
theorem test_rst :
    Ends ((launch 0x0150 [0xEF]) |>.set16 .sp 0xFFFE)
      (fun t => busRead t 0xFFFD = 0x01 ∧ busRead t 0xFFFC = 0x51 ∧ t.get16 .sp = 0xFFFC ∧
        t.regs.pc = 0x0028 ∧ t.cycles = 4) := by decide

/-! ### System instructions (vectors X4 to X9) -/

/-- X4, X9. -/
theorem test_nop :
    Ends (launch 0x0100 [0x00]) (fun t => t.regs.pc = 0x0101 ∧ t.cycles = 1) ∧
    Ends ((launch 0x0100 [0x00]) |>.hold 0xFF0F 0x1F |>.hold 0xFFFF 0x1F |>.setIme true)
      (fun t => t.regs.pc = 0x0101 ∧ t.get16 .sp = 0xFFFE ∧ t.ime = true) := by decide

/-- X5. -/
theorem test_halt :
    Ends (launch 0x0200 [0x76]) (fun t => t.regs.pc = 0x0201 ∧ t.running = false ∧ t.cycles = 1) := by decide

/-- X6. -/
theorem test_stop :
    Ends (launch 0x0200 [0x10, 0x00])
      (fun t => t.regs.pc = 0x0202 ∧ t.running = false ∧ busRead t 0xFF04 = 0xAB ∧ t.cycles = 1) := by decide

/-- X7, X8. -/
theorem test_di_ei :
    Ends ((launch 0x0100 [0xF3]) |>.setIme true) (fun t => t.ime = false ∧ t.cycles = 1) ∧
    Ends ((launch 0x0100 [0xFB]) |>.setIme false) (fun t => t.ime = true ∧ t.cycles = 1) := by decide

/-! ### The fault and a stopped console (vectors X1 to X3, X10) -/

/-- The next step raises the fault with these values and leaves a state that passes `check`. -/
abbrev Faults (s : State) (table : OpTable) (op : Byte) (addr : Word) (check : State → Bool) : Prop :=
  (match step s with
    | .next _ => false
    | .fault (.unimplementedOpcode table' op' addr' t) => decide (table' = table ∧ op' = op ∧ addr' = addr) && check t
    | .refused _ => false) = true

/-- X1: an illegal byte; the whole state after it is given. -/
theorem test_fault_illegal :
    Faults (launch 0x0150 [0xDD]) .base 0xDD 0x0150
      (fun t => t = ((launch 0x0150 [0xDD]).setPc 0x0151).setRunning false) := by decide

/-- X2: a gap of the table after the prefix. -/
theorem test_fault_cb_gap :
    Faults { launch 0x0100 [0xCB, 0x37] with cfg := { Config.default with gapsCb := [0x37] } } .cb 0x37 0x0100
      (fun t => t.regs.pc = 0x0102 ∧ t.running = false ∧ t.cycles = 0 ∧ t.get8 .a = 0x01) := by decide

/-- X3: a gap of the first table. -/
theorem test_fault_base_gap :
    Faults { launch 0x0100 [0x27] with cfg := { Config.default with gapsBase := [0x27] } } .base 0x27 0x0100
      (fun t => t.regs.pc = 0x0101 ∧ t.running = false) := by decide

/-- X10. -/
theorem test_not_running : Ends ((launch 0x0100 [0x00]).setRunning false)
    (fun t => t = (launch 0x0100 [0x00]).setRunning false) := by decide

/-- P7, step 1: open bus is `RST 38H`. -/
theorem test_open_bus : Ends { launch 0x0100 [] with cart := Cartridge.none }
    (fun t => t.regs.pc = 0x0038 ∧ busRead t 0xFFFD = 0x01 ∧ busRead t 0xFFFC = 0x01 ∧ t.get16 .sp = 0xFFFC ∧
      t.cycles = 4) := by decide

/-! ### The bus and the I/O block (vectors B1 to B45) -/

/-- The setup of B1 to B22. -/
def busSetup : State :=
  { launch 0x0100 [] with
    cart :=
      { rom := [(0x0000, 0x10), (0x3FFF, 0x11), (0x4000, 0x22), (0x7FFF, 0x33)], romLen := 0x8000, cramLen := 0x0800 }
    cram := [(0x0000, 0x44), (0x07FF, 0x45)]
    vram := [(0x0000, 0x50), (0x1FFF, 0x51)]
    wram := [(0x0000, 0x60), (0x1DFF, 0x61), (0x1E00, 0x62), (0x1FFF, 0x63)]
    oam := [(0x00, 0x70), (0x9F, 0x71)]
    hram := [(0x00, 0x80), (0x7E, 0x81)]
    ie := 0x1F }

/-- What the addresses read as, in order. -/
def reads (s : State) (as : List Word) : List Byte := as.map (busRead s)

/-- B1 to B10. -/
theorem test_bus_rom_to_echo :
    reads busSetup [0x0000, 0x3FFF, 0x4000, 0x7FFF, 0x8000, 0x9FFF, 0xA000, 0xA7FF, 0xA800, 0xBFFF, 0xC000, 0xDFFF,
        0xE000, 0xFDFF] =
      [0x10, 0x11, 0x22, 0x33, 0x50, 0x51, 0x44, 0x45, 0xFF, 0xFF, 0x60, 0x63, 0x60, 0x61] := by decide

/-- B13 to B20. -/
theorem test_bus_oam_to_ie :
    reads busSetup [0xDE00, 0xFE00, 0xFE9F, 0xFEA0, 0xFEFF, 0xFF00, 0xFF03, 0xFF7F, 0xFF80, 0xFFFE, 0xFFFF] =
      [0x62, 0x70, 0x71, 0x00, 0x00, 0xCF, 0xFF, 0xFF, 0x80, 0x81, 0x1F] := by decide

/-- B8, B11, B12, B16. -/
theorem test_bus_writes :
    busRead (busWrite busSetup 0xA800 0x12) 0xA800 = 0xFF ∧
    busRead (busWrite busSetup 0xE123 0x9C) 0xC123 = 0x9C ∧
    busRead (busWrite busSetup 0xDDFF 0x9D) 0xFDFF = 0x9D ∧
    busRead (busWrite busSetup 0xFEA0 0x55) 0xFEA0 = 0x00 := by decide

/-- B21, B22. -/
theorem test_bus_rom :
    reads (busWrite (busWrite (busWrite busSetup 0x0000 0x01) 0x2000 0x01) 0x7FFF 0xAA) [0x0000, 0x2000, 0x7FFF] =
      [0x10, 0x00, 0x33] ∧
    reads { busSetup with cart := { rom := [(0x14F, 0x99), (0x150, 0x98)], romLen := 0x150, cramLen := 0 } }
        [0x014F, 0x0150, 0x7FFF] =
      [0x99, 0xFF, 0xFF] := by decide

/-- B33 (S12): the values at creation, through the bus. -/
theorem test_io_at_creation :
    reads State.reset [0xFF00, 0xFF02, 0xFF04, 0xFF07, 0xFF0F, 0xFF40, 0xFF41, 0xFF47, 0xFFFF, 0xFF05, 0xFF10, 0xFF44] =
      [0xCF, 0x7E, 0xAB, 0xF8, 0xE1, 0x91, 0x85, 0xFC, 0x00, 0x00, 0x00, 0x00] := by decide

/-- B30 (S5). -/
theorem test_io_dma :
    let t := busWrite (busWrite State.reset 0xC000 0xAB) 0xFF46 0xC0
    t.io.dma = 0xC0 ∧ t.oam = [(0, 0xAB)] := by decide

/-- B31 (S6). -/
theorem test_io_serial :
    let t := busWrite (busWrite State.reset 0xFF01 0x41) 0xFF02 0x80
    t.serialOut = [0x41] ∧ t.io.sb = 0x41 ∧ reads t [0xFF02, 0xFF0F] = [0x00, 0xE9] ∧ t.io.iflag = 0xE9 := by decide

/-- B32 (S7). -/
theorem test_io_interrupt_flags :
    let t := busWrite State.reset 0xFF0F 0xFF
    let u := busWrite t 0xFF0F 0x00
    busRead State.reset 0xFF0F = 0xE1 ∧ t.io.iflag = 0x1F ∧ busRead t 0xFF0F = 0xFF ∧ u.io.iflag = 0x00 ∧
    busRead u 0xFF0F = 0xE0 := by decide

/-- B34. -/
theorem test_io_joyp :
    let t := busWrite State.reset 0xFF00 0x00
    let u := busWrite t 0xFF00 0x20
    let v := busWrite u 0xFF00 0xFF
    [busRead t 0xFF00, busRead u 0xFF00, busRead v 0xFF00, busRead (busWrite v 0xFF00 0x10) 0xFF00] =
      [0xCF, 0xEF, 0xFF, 0xDF] := by decide

/-- B35, B36. -/
theorem test_io_serial_control :
    let t := busWrite State.reset 0xFF02 0x81
    let u := busWrite State.reset 0xFF02 0x7F
    t.serialOut = [0x00] ∧ t.io.sc = 0x01 ∧ t.io.iflag = 0xE9 ∧
    u.serialOut = [] ∧ u.io.sc = 0x7F ∧ u.io.iflag = 0xE1 := by decide

/-- B37, B38, B40, B41. -/
theorem test_io_masks :
    busRead (busWrite State.reset 0xFF04 0x55) 0xFF04 = 0x00 ∧
    busRead (busWrite State.reset 0xFF07 0xFF) 0xFF07 = 0x07 ∧
    busRead (busWrite State.reset 0xFF07 0xF8) 0xFF07 = 0x00 ∧
    busRead (busWrite State.reset 0xFF44 0x90) 0xFF44 = 0x00 ∧
    busRead (busWrite State.reset 0xFF03 0x12) 0xFF03 = 0xFF := by decide

/-- B39, B42. -/
theorem test_io_stat_and_verbatim :
    let t := busWrite State.reset 0xFF41 0xFF
    let u := busWrite t 0xFF41 0x00
    t.io.stat = 0xFD ∧ busRead t 0xFF41 = 0xFD ∧ u.io.stat = 0x85 ∧ busRead u 0xFF41 = 0x85 ∧
    busRead (busWrite State.reset 0xFF26 0xFF) 0xFF26 = 0xFF ∧
    busRead (busWrite State.reset 0xFF50 0x01) 0xFF50 = 0x01 ∧
    busRead (busWrite State.reset 0xFF45 0x90) 0xFF45 = 0x90 := by decide

/-- B43, B44. -/
theorem test_dma_from_oam_and_rom :
    (busWrite (State.reset.setOam [(5, 0x77)]) 0xFF46 0xFE).oam = [(5, 0x77)] ∧
    reads (busWrite State.reset 0xFF46 0x00) [0xFE00, 0xFE9F] = [0xFF, 0xFF] := by decide

/-- B45. -/
theorem test_dma_from_io :
    reads (busWrite (State.reset.setHram [(0, 0x80)]) 0xFF46 0xFF)
        [0xFE00, 0xFE02, 0xFE03, 0xFE04, 0xFE0F, 0xFE41, 0xFE46, 0xFE7F, 0xFE80] =
      [0xCF, 0x7E, 0xFF, 0xAB, 0xE1, 0x85, 0xFF, 0xFF, 0x80] := by decide

/-! ### Reset and the host's operations -/

/-- 10_state.md R80: the register file at creation, with the default `RESET_REGS`. -/
theorem test_reset_registers :
    State.reset.regs =
      { a := 0x01, f := 0xB0, b := 0x00, c := 0x13, d := 0x00, e := 0xD8, h := 0x01, l := 0x4D, sp := 0xFFFE,
        pc := 0x0100 } := by decide

/-- The default parameters are what the spec asks of parameters (D3, R80, R600). -/
theorem test_default_parameters : Config.default.wf := by decide

/-- H5, and the load of H6 over a state with WRAM[0] = 0x0F and 33 cycles counted. -/
theorem test_load_cartridge :
    let s : State := { launch 0x0100 [] with wram := [(0, 0x0F)], cycles := 33, ime := true, running := false }
    loadCartridge none busSetup = (false, { busSetup with running := false }) ∧
    (let t := (loadCartridge (some ⟨⟨[], 0x8000, 0⟩, []⟩) s).2
     t.regs = Config.defaultResetRegs ∧ t.ime = false ∧ t.running = true ∧ t.wram = [(0, 0x0F)] ∧ t.cycles = 33 ∧
     t.io = s.io) := by decide

/-- H8: HALT ends a frame run after three steps. -/
theorem test_frame_run_halts :
    (match runOneFrame (launch 0x0100 [0x00, 0x00, 0x76]) with
      | .next t => decide (t.cycles = 3 ∧ t.running = false ∧ t.regs.pc = 0x0103)
      | .fault _ => false
      | .refused _ => false) = true := by decide

/-- `withFetchWord` places the word where the next step fetches: `LD A,0x41` from reset. -/
theorem test_with_fetch_word :
    Ends (State.reset.withFetchWord 16 0x413E) (fun t => t.get8 .a = 0x41 ∧ t.regs.pc = 0x0102) ∧
    decodeTableWord 16 0x413E = some (.ldRN .a 0x41) := by decide

/-! ### Well-formedness: one ill-formed term for each check -/

/-- 0xD4 is `CALL NC,nn` and none of the eleven bytes of R211. -/
theorem test_wellFormed_refuses_defined_byte_as_illegal :
    (Instr.illegal 0xD4).illFormed = some .notAnIllegalOpcode ∧ ¬ (Instr.illegal 0xD4).WellFormed ∧
    (Instr.illegal 0xD3).WellFormed := by decide

/-- R210: the prefix is no instruction by itself. -/
theorem test_wellFormed_refuses_prefix_alone :
    (Instr.prefixCb 0x37).illFormed = some .prefixAlone ∧ ¬ (Instr.prefixCb 0x37).WellFormed ∧
    (Instr.swapR .a).WellFormed := by decide

/-- R495 inside the step: the second byte selects the routine (`SWAP A`). -/
theorem test_prefix_runs_second_table :
    (match exec (.prefixCb 0x37) ((launch 0x0100 []).set8 .a 0xF1) with
      | .next t => decide (t.get8 .a = 0x1F ∧ t.cycles = 2)
      | .fault _ => false
      | .refused _ => false) = true := by decide

/-! ### Witnesses: the hypotheses of each obligation, met together -/

theorem witness_O1 : (Instr.ldRR .c .e).WellFormed ∧ (Instr.illegal 0xDD).WellFormed ∧
    (Instr.callCcNn .nz 0xFFFF).WellFormed := by decide

/-- The two bytes of O4 and O57 after the first are read past the instruction and left over. -/
theorem witness_O4 :
    let s := launch 0x0100 [0x80]
    s.running = true ∧
    decode [busRead s s.regs.pc, busRead s (s.regs.pc + 1), busRead s (s.regs.pc + 2)] = .ok (.addAR .b, [0x00, 0x00]) ∧
    busRead s s.regs.pc ∉ s.cfg.gapsBase ∧
    (busRead s s.regs.pc = 0xCB → busRead s (s.regs.pc + 1) ∉ s.cfg.gapsCb) ∧
    State.reset.running = false := ⟨rfl, rfl, by decide, by decide, rfl⟩

/-- A prefixed instruction while another second byte is a gap. -/
theorem witness_O4_prefixed :
    let s : State := { launch 0x0100 [0xCB, 0x2F] with cfg := { Config.default with gapsCb := [0x37] } }
    s.running = true ∧
    decode [busRead s s.regs.pc, busRead s (s.regs.pc + 1), busRead s (s.regs.pc + 2)] = .ok (.sraR .a, [0x00]) ∧
    busRead s s.regs.pc = 0xCB ∧ busRead s (s.regs.pc + 1) ∉ s.cfg.gapsCb := ⟨rfl, rfl, by decide, by decide⟩

/-- A gap of the first table, an illegal byte, a gap of the second. -/
theorem witness_O5 :
    let s : State := { launch 0x0100 [0x27] with cfg := { Config.default with gapsBase := [0x27] } }
    let t := launch 0x0150 [0xDD]
    let u : State := { launch 0x0100 [0xCB, 0x37] with cfg := { Config.default with gapsCb := [0x37] } }
    (s.running = true ∧ busRead s s.regs.pc ∈ s.cfg.gapsBase) ∧
    (t.running = true ∧ busRead t t.regs.pc ∈ illegalOpcodes) ∧
    (u.running = true ∧ busRead u u.regs.pc ∉ u.cfg.gapsBase ∧ busRead u u.regs.pc = 0xCB ∧
      busRead u (u.regs.pc + 1) ∈ u.cfg.gapsCb) := by decide

theorem witness_O6 :
    let s := launch 0x0100 [0xCB, 0x2F]
    busRead s s.regs.pc ∉ s.cfg.gapsBase ∧ busRead s s.regs.pc ∉ illegalOpcodes ∧
    (busRead s s.regs.pc = 0xCB → busRead s (s.regs.pc + 1) ∉ s.cfg.gapsCb) := by decide

theorem witness_O7 :
    let s : State := { launch 0x0100 [] with cfg := { Config.default with gapsCb := [0x37] } }
    (0x36 : Byte) ∉ s.cfg.gapsCb ∧ (0x37 : Byte) ∈ s.cfg.gapsCb := by decide

theorem witness_O8 :
    (0xD3 : Byte) ∈ ([0xD3, 0xDB, 0xDD, 0xE3, 0xE4, 0xEB, 0xEC, 0xED, 0xF4, 0xFC, 0xFD] : List Byte) := by decide

/-- The last offset of each clause of O9, and that each clause's ranges end where the next begins. -/
theorem witness_O9 :
    0x7FFF < 0x8000 ∧ 0x1FFF < 0x2000 ∧ 0x1DFF < 0x1E00 ∧ 159 < 160 ∧ 95 < 96 ∧ 127 < 128 ∧ 126 < 127 ∧
    [0x0000, 0x3FFF, 0x4000, 0x7FFF, 0x8000, 0x9FFF, 0xA000, 0xBFFF, 0xC000, 0xDFFF, 0xE000].map region =
      [.romFixed, .romFixed, .romSwitch, .romSwitch, .vram, .vram, .cram, .cram, .wram, .wram, .echo] ∧
    [0xFDFF, 0xFE00, 0xFE9F, 0xFEA0, 0xFEFF, 0xFF00, 0xFF7F, 0xFF80, 0xFFFE, 0xFFFF].map region =
      [.echo, .oam, .oam, .unusable, .unusable, .io, .io, .hram, .hram, .ie] := by decide

/-- A write of Work RAM touches no other address of it, no Video RAM and no register. -/
theorem witness_O11 :
    ¬ Touches Config.default 0xC000 0x55 0xC001 ∧ ¬ Touches Config.default 0xC000 0x55 0x8000 ∧
    ¬ Touches Config.default 0xFF46 0x55 0xC000 := by
  refine ⟨?_, ?_, ?_⟩ <;> unfold Touches SameCell <;> decide

theorem witness_O13 : 0x1DFF ≤ 0x1DFF ∧ region 0xE000 = .echo ∧ region 0xFDFF = .echo := by decide

/-- O14: `IF`, `STAT`, another register, and the first and the last unmapped address. -/
theorem witness_O14 :
    (region 0xFF0F = .io ∧ State.reset.cfg.ioAt 0xFF0F = some .iflag) ∧
    (region 0xFF41 = .io ∧ State.reset.cfg.ioAt 0xFF41 = some .stat) ∧
    (region 0xFF00 = .io ∧ State.reset.cfg.ioAt 0xFF00 = some .joyp) ∧
    (region 0xFF03 = .io ∧ State.reset.cfg.ioAt 0xFF03 = none) ∧
    (region 0xFF7F = .io ∧ State.reset.cfg.ioAt 0xFF7F = none) := by decide

/-- O15 to O17: a register of each kind of write rule; for `SC` a byte with bit 7 and one without. -/
theorem witness_O15 :
    (region 0xFF00 = .io ∧ State.reset.cfg.ioAt 0xFF00 = some .joyp) ∧
    (region 0xFF02 = .io ∧ State.reset.cfg.ioAt 0xFF02 = some .sc) ∧
    (region 0xFF26 = .io ∧ State.reset.cfg.ioAt 0xFF26 = some (.snd 22)) ∧
    (region 0xFF44 = .io ∧ State.reset.cfg.ioAt 0xFF44 = some .ly) ∧
    (region 0xFF50 = .io ∧ State.reset.cfg.ioAt 0xFF50 = some .boot) := by decide

theorem witness_O16 :
    region 0xFF02 = .io ∧ State.reset.cfg.ioAt 0xFF02 = some .sc ∧ (0x80 : Byte).getLsbD 7 = true ∧
    (0x7F : Byte).getLsbD 7 = false := by decide

theorem witness_O17 :
    region 0xFF46 = .io ∧ State.reset.cfg.ioAt 0xFF46 = some .dma ∧ 159 < 160 ∧ region 0xFE9F = .oam ∧
    region 0xFEA0 ≠ .oam := by decide

theorem witness_O28 :
    let s := (launch 0x0100 []).set16 .sp 0xD000
    s.regs.f &&& 0x0F = 0 ∧ region (s.regs.sp - 1) ∈ ([.vram, .wram, .echo, .oam, .hram] : List Region) ∧
    region (s.regs.sp - 2) ∈ ([.vram, .wram, .echo, .oam, .hram] : List Region) := by decide

/-- The conditions of O35 at the edges of the digits: 0x99 needs no adjustment, 0x9A both, 0xA0 the upper one. -/
theorem witness_O35 :
    let cond : Byte → Byte → Bool × Bool × Bool := fun a f =>
      let s := ((launch 0x0100 []).set8 .a a).setF f
      (s.flags.n, decide (s.flags.h = true ∨ (s.get8 .a).toNat % 16 > 0x09),
        decide (s.flags.c = true ∨ (s.get8 .a).toNat > 0x99))
    cond 0x99 0x00 = (false, false, false) ∧ cond 0x9A 0x00 = (false, true, true) ∧
    cond 0xA0 0x00 = (false, false, true) ∧ cond 0x0A 0x00 = (false, true, false) ∧
    cond 0x00 0x30 = (false, true, true) ∧ (cond 0x00 0x40).1 = true := by decide

theorem witness_O36 :
    ((launch 0x0100 []).set8 .a 0x99).get8 .a = .ofNat 8 ((99 : Fin 100).val / 10 * 16 + (99 : Fin 100).val % 10) := by
  decide

/-- Every condition both ways, for O45 to O48. -/
theorem witness_O45 :
    let s := (launch 0x0100 []).setF 0x90
    let t := (launch 0x0100 []).setF 0x00
    Holds .z s ∧ Holds .c s ∧ ¬ Holds .nz s ∧ ¬ Holds .nc s ∧
    Holds .nz t ∧ Holds .nc t ∧ ¬ Holds .z t ∧ ¬ Holds .c t := by
  unfold Holds
  decide

/-- A NOP in ROM, and one read from the unusable range. -/
theorem witness_O49 :
    let s := launch 0x0100 [0x00]
    let t := (launch 0x0100 []).setPc 0xFEA0
    (s.running = true ∧ busRead s s.regs.pc = 0x00 ∧ (0x00 : Byte) ∉ s.cfg.gapsBase) ∧
    (t.running = true ∧ region t.regs.pc = .unusable ∧ (0x00 : Byte) ∉ t.cfg.gapsBase) := by decide

theorem witness_O52 :
    region 0x0000 = .romFixed ∧ region 0x7FFF = .romSwitch ∧ region 0xBFFF = .cram ∧
    State.reset.cfg.resetRegs.pc.toNat < 0x8000 ∧
    State.reset.cfg.resetRegs.pc.toNat < (launch 0x0100 [0x00]).cart.romLen := by decide

theorem inv_launch_nop : (launch 0x0100 [0x00]).Inv := by
  constructor <;> decide

theorem inv_launch_illegal : (launch 0x0100 [0xDD]).Inv := by
  constructor <;> decide

/-- A state with the invariant and a next state, and one with the invariant and the fault. -/
theorem witness_O53 :
    ((launch 0x0100 [0x00]).Inv ∧
      step (launch 0x0100 [0x00]) = .next (((launch 0x0100 [0x00]).setPc 0x0101).addCycles 1)) ∧
    ((launch 0x0100 [0xDD]).Inv ∧
      step (launch 0x0100 [0xDD]) =
        .fault (.unimplementedOpcode .base 0xDD 0x0100 (((launch 0x0100 [0xDD]).setPc 0x0101).setRunning false))) :=
  ⟨⟨inv_launch_nop, rfl⟩, ⟨inv_launch_illegal, rfl⟩⟩

/-- Parameters, RAM contents and a cartridge as O54 asks. -/
theorem witness_O54 :
    Config.default.resetRegs.f &&& 0x0F = 0 ∧
    (Memory.wf [(0x1FFF, 0x55)] ∧ Memory.below [(0x1FFF, 0x55)] 0x2000) ∧
    (Memory.wf [(159, 0x55)] ∧ Memory.below [(159, 0x55)] 160) ∧
    (Memory.wf [(126, 0x55)] ∧ Memory.below [(126, 0x55)] 127) ∧
    (launch 0x0100 [0x00]).cfg.resetRegs.f &&& 0x0F = 0 := by decide

/-- HALT clears `running`, EI sets `ime`, an illegal byte raises the fault. -/
theorem witness_O55 :
    let s := launch 0x0100 []
    exec .halt s = .next ((s.setRunning false).addCycles 1) ∧
    ((s.setRunning false).addCycles 1).running ≠ s.running ∧
    exec .ei s = .next ((s.setIme true).addCycles 1) ∧ ((s.setIme true).addCycles 1).ime ≠ s.ime ∧
    exec (.illegal 0xDD) s = .fault (.unimplementedOpcode .base 0xDD 0x00FF { s with running := false }) :=
  ⟨rfl, by decide, rfl, by decide, rfl⟩

theorem witness_O56 :
    exec (.ldRN .a 0x41) (launch 0x0100 []) = .next (((launch 0x0100 []).set8 .a 0x41).addCycles 2) ∧
    ¬ WritesFlags (.ldRN .a 0x41) := ⟨rfl, id⟩

theorem witness_O57 :
    let s := launch 0x0100 [0x3E, 0x41]
    s.running = true ∧
    decode [busRead s s.regs.pc, busRead s (s.regs.pc + 1), busRead s (s.regs.pc + 2)] = .ok (.ldRN .a 0x41, [0x00]) ∧
    ¬ SetsPc (.ldRN .a 0x41) ∧ step s = .next (((s.setPc 0x0102).set8 .a 0x41).addCycles 2) :=
  ⟨rfl, rfl, id, rfl⟩

/-- `JP Z,0x8000` with Z set and clear. A stopped console and the fault are those of O4 and O53. -/
theorem witness_O58 :
    let s := (launch 0x0100 [0xCA, 0x00, 0x80]).setF 0x80
    let t := (launch 0x0100 [0xCA, 0x00, 0x80]).setF 0x00
    (s.running = true ∧
      decode [busRead s s.regs.pc, busRead s (s.regs.pc + 1), busRead s (s.regs.pc + 2)] =
        .ok (.jpCcNn .z 0x8000, []) ∧
      Taken s (.jpCcNn .z 0x8000) ∧ step s = .next ((s.setPc 0x8000).addCycles 4)) ∧
    (t.running = true ∧
      decode [busRead t t.regs.pc, busRead t (t.regs.pc + 1), busRead t (t.regs.pc + 2)] =
        .ok (.jpCcNn .z 0x8000, []) ∧
      ¬ Taken t (.jpCcNn .z 0x8000) ∧ step t = .next ((t.setPc 0x0103).addCycles 3)) := by
  refine ⟨⟨rfl, rfl, ?_, rfl⟩, ⟨rfl, rfl, ?_, rfl⟩⟩ <;> unfold Taken Holds <;> decide

/-- Two states that differ only in `ime`. -/
theorem witness_O59 :
    let s := launch 0x0100 [0x00]
    s.visible = (s.setIme true).visible ∧ s ≠ s.setIme true := by decide

/-- H1: the console of `JR -2` at 0x0100 after `n` cycles. -/
def spinning (n : Nat) : State := (launch 0x0100 [0x18, 0xFE]).addCycles n

theorem exec_spinning (n : Nat) : exec (.jrE 0xFE) ((spinning n).setPc 0x0102) = .next (spinning (n + 3)) := by
  have hb : Config.default.baseCost (.jrE 0xFE) = 3 := by decide
  have hpc : (0x0102 : Word) + sext16 0xFE = 0x0100 := by decide
  show Host.Outcome.next (((launch 0x0100 [0x18, 0xFE]).addCycles n).setPc (0x0102 + sext16 0xFE) |>.addCycles
    (Config.default.baseCost (.jrE 0xFE))) = _
  rw [hb, hpc]
  rfl

theorem step_spinning (n : Nat) : step (spinning n) = .next (spinning (n + 3)) := by
  have hpc : (spinning n).regs.pc = 0x0100 := rfl
  have hcfg : (spinning n).cfg = Config.default := rfl
  have h0 : busRead (spinning n) 0x0100 = 0x18 := by
    rw [spinning, busRead_addCycles]
    decide
  have h1 : busRead (spinning n) (0x0100 + 1) = 0xFE := by
    rw [spinning, busRead_addCycles]
    decide
  rw [step_running rfl, hpc, hcfg, h0, h1, if_neg (by decide), if_neg (by decide)]
  exact exec_spinning n

theorem frameLoop_spinning (k : Nat) : ∀ fuel e n, e + 3 * k = 70224 → k ≤ fuel →
    frameLoop fuel e (spinning n) = .next (spinning (n + 3 * k)) := by
  induction k with
  | zero =>
    intro fuel e n he _
    cases fuel with
    | zero => rfl
    | succ fuel => rw [frameLoop, if_neg (by simp only [frameBudget]; omega)]; rfl
  | succ k ih =>
    intro fuel e n he hk
    cases fuel with
    | zero => omega
    | succ fuel =>
      rw [frameLoop, if_pos ⟨by simp only [frameBudget]; omega, rfl⟩, step_spinning]
      have hc : stepCost (spinning n) (spinning (n + 3)) = 3 := by
        show 0 + (n + 3) - (0 + n) = 3
        omega
      simp only [hc]
      rw [ih fuel (e + 3) (n + 3) (by omega) (by omega)]
      congr 2
      omega

/-- H1: a frame run of exactly 70224 cycles after which the console runs on. -/
theorem witness_O60 :
    (spinning 0).cfg.cost = Config.defaultCost ∧ runOneFrame (spinning 0) = .next (spinning 70224) ∧
    (spinning 70224).running = true :=
  by
  refine ⟨rfl, ?_, rfl⟩
  rw [runOneFrame, frameBudget]
  exact frameLoop_spinning 23408 70224 0 0 (by omega) (by omega)

end Sys2Proof.Machine
end

section
/-!
PROOFS of the family 10_state.md: register pairs are views of two registers (R45), and the I/O block at creation
(R62, R81).
-/

namespace Sys2Proof

/-! ### The two bytes of a word, as slices of its bits -/

theorem hi8_eq_extractLsb' (w : Word) : hi8 w = w.extractLsb' 8 8 := by
  apply BitVec.eq_of_toNat_eq
  simp only [hi8, BitVec.toNat_ofNat, BitVec.extractLsb'_toNat, Nat.shiftRight_eq_div_pow]

theorem lo8_eq_extractLsb' (w : Word) : lo8 w = w.extractLsb' 0 8 := by
  apply BitVec.eq_of_toNat_eq
  simp only [lo8, BitVec.toNat_ofNat, BitVec.extractLsb'_toNat, Nat.shiftRight_zero]

theorem joinBytes_eq_append (hi lo : Byte) : joinBytes hi lo = hi ++ lo := by
  apply BitVec.eq_of_toNat_eq
  rw [BitVec.toNat_append, ← Nat.shiftLeft_add_eq_or_of_lt lo.isLt, Nat.shiftLeft_eq]
  simp only [joinBytes, BitVec.toNat_ofNat]
  omega

end Sys2Proof

namespace Sys2Proof.Machine

/-! ### Pairs in the Console State -/

/-- Settles O18: the composition law of the register file, and the two bytes of a word as slices of its bits. -/
theorem pairsAreViews : Obligations.PairsAreViews := by
  intro s w hi lo
  exact ⟨fun p q => State.get16_set16 s p q w,
    hi8_eq_extractLsb' w, lo8_eq_extractLsb' w, hi8_eq_extractLsb' w, lo8_eq_extractLsb' w,
    hi8_eq_extractLsb' w, lo8_eq_extractLsb' w,
    joinBytes_eq_append hi lo, joinBytes_eq_append hi lo, joinBytes_eq_append hi lo⟩

/-! ### The I/O block at creation -/

/-- Every sound register is zero in the block that creation installs (R62). -/
theorem IoBlock.get_snd_reset (k : Fin 23) : IoBlock.reset.get (.snd k) = 0x00 :=
  Vector.getElem_replicate k.isLt

/-- The registers that R81 names are the only ones not zero in the block that creation installs. -/
theorem IoBlock.get_reset_eq_zero {r : IoReg}
    (h : r ∉ ([.joyp, .sc, .div, .tac, .iflag, .lcdc, .stat, .bgp] : List IoReg)) : IoBlock.reset.get r = 0x00 := by
  cases r with
  | snd k => exact IoBlock.get_snd_reset k
  | joyp | sc | div | tac | iflag | lcdc | stat | bgp => simp at h
  | sb | tima | tma | scy | scx | ly | lyc | dma | obp0 | obp1 | wy | wx | boot => rfl

/-- Settles O51: creation installs `IoBlock.reset` whatever its parameters. -/
theorem creationIoValues : Obligations.CreationIoValues := by
  intro cfg init
  exact ⟨rfl, rfl, rfl, rfl, rfl, rfl, rfl, rfl, rfl, fun r hr => IoBlock.get_reset_eq_zero hr⟩

end Sys2Proof.Machine
end

section
/-!
PROOFS of the family 20_memory.md: the ranges of the address space and the echo of Work RAM (R102 to R110), and the
reads, the write rules, the serial transfer and the OAM DMA of the I/O block (R125 to R142).
-/

namespace Sys2Proof.Machine

/-! ### The bounds of the ranges (R102) -/

/-- The first address of a range. -/
def Region.first : Region → Nat
  | .romFixed => 0x0000
  | .romSwitch => 0x4000
  | .vram => 0x8000
  | .cram => 0xA000
  | .wram => 0xC000
  | .echo => 0xE000
  | .oam => 0xFE00
  | .unusable => 0xFEA0
  | .io => 0xFF00
  | .hram => 0xFF80
  | .ie => 0xFFFF

/-- The number of addresses of a range. -/
def Region.size : Region → Nat
  | .romFixed | .romSwitch => 0x4000
  | .vram | .cram | .wram => 0x2000
  | .echo => 0x1E00
  | .oam => 160
  | .unusable => 96
  | .io => 128
  | .hram => 127
  | .ie => 1

/-- Every address lies within the bounds of its range. -/
theorem region_bounds (a : Word) : (region a).first ≤ a.toNat ∧ a.toNat < (region a).first + (region a).size := by
  have := a.isLt
  unfold region
  repeat' split
  all_goals simp only [Region.first, Region.size]; omega

/-- An address within the bounds of a range is in that range. -/
theorem region_of_bounds {a : Word} (r : Region) (hfirst : r.first ≤ a.toNat) (hlast : a.toNat < r.first + r.size) :
    region a = r := by
  cases r <;> simp only [Region.first, Region.size] at hfirst hlast <;>
    simp (disch := omega) only [region, if_pos, if_neg]

/-- The address `k` bytes into a range that begins at `base` is in the range, and `k` is its offset there. -/
theorem region_at_offset (r : Region) (base : Nat) {k : Nat} (hbase : r.first = base) (hk : k < r.size) :
    region (.ofNat 16 (base + k)) = r ∧ (BitVec.ofNat 16 (base + k)).toNat - base = k := by
  have hend : r.first + r.size ≤ 2 ^ 16 := by cases r <;> decide
  have hn : (BitVec.ofNat 16 (base + k)).toNat = base + k := Nat.mod_eq_of_lt (by omega)
  exact ⟨region_of_bounds r (by omega) (by omega), by omega⟩

/-- The addresses below 0x8000 are those of the two ROM windows (R103). -/
theorem region_rom {a : Word} (h : a.toNat < 0x8000) : region a = .romFixed ∨ region a = .romSwitch := by
  by_cases hfixed : a.toNat < 0x4000
  · exact .inl (region_of_bounds .romFixed (Nat.zero_le _) (by simpa [Region.first, Region.size]))
  · exact .inr (region_of_bounds .romSwitch (Nat.le_of_not_lt hfixed) h)

/-! ### Reads and writes by the offset into a range -/

/-- Work RAM at offset `k` (R106). -/
theorem bus_wram (s : State) {k : Nat} (v : Byte) (hk : k < 0x2000) :
    busRead s (.ofNat 16 (0xC000 + k)) = s.wram.read k ∧
    busWrite s (.ofNat 16 (0xC000 + k)) v = s.setWram (s.wram.write k v) := by
  obtain ⟨hr, ho⟩ := region_at_offset .wram 0xC000 rfl hk
  simp only [busRead, busWrite, hr, ho, and_self]

/-- The echo of Work RAM at offset `k` (R107). -/
theorem bus_echo (s : State) {k : Nat} (v : Byte) (hk : k < 0x1E00) :
    busRead s (.ofNat 16 (0xE000 + k)) = s.wram.read k ∧
    busWrite s (.ofNat 16 (0xE000 + k)) v = s.setWram (s.wram.write k v) := by
  obtain ⟨hr, ho⟩ := region_at_offset .echo 0xE000 rfl hk
  simp only [busRead, busWrite, hr, ho, and_self]

/-- OAM at offset `k` (R108). -/
theorem bus_oam (s : State) {k : Nat} (v : Byte) (hk : k < 160) :
    busRead s (.ofNat 16 (0xFE00 + k)) = s.oam.read k ∧
    busWrite s (.ofNat 16 (0xFE00 + k)) v = s.setOam (s.oam.write k v) := by
  obtain ⟨hr, ho⟩ := region_at_offset .oam 0xFE00 rfl hk
  simp only [busRead, busWrite, hr, ho, and_self]

/-- Settles O9: each clause is the arm of the two bus functions for its range, at the offset `k` into it. -/
theorem busRanges : Obligations.BusRanges := by
  intro s k v
  refine ⟨fun hk => ?rom, fun hk => ?vram, fun hk => ?cram, bus_wram s v, bus_echo s v, bus_oam s v,
    fun hk => ?unusable, fun hk => ?io, fun hk => ?hram, rfl, rfl⟩
  case rom =>
    have hn : (BitVec.ofNat 16 k).toNat = k := Nat.mod_eq_of_lt (by omega)
    obtain hr | hr := region_rom (hn.trans_lt hk) <;> simp only [busRead, busWrite, hr, hn, openBus, and_self]
  case vram =>
    obtain ⟨hr, ho⟩ := region_at_offset .vram 0x8000 rfl hk
    simp only [busRead, busWrite, hr, ho, State.setVram, and_self]
  case cram =>
    obtain ⟨hr, ho⟩ := region_at_offset .cram 0xA000 rfl hk
    simp only [busRead, busWrite, hr, ho, openBus, State.setCram, and_self]
  case unusable =>
    obtain ⟨hr, -⟩ := region_at_offset .unusable 0xFEA0 rfl hk
    simp only [busRead, busWrite, hr, and_self]
  case io =>
    obtain ⟨hr, -⟩ := region_at_offset .io 0xFF00 rfl hk
    simp only [busRead, busWrite, hr, and_self]
  case hram =>
    obtain ⟨hr, ho⟩ := region_at_offset .hram 0xFF80 rfl hk
    simp only [busRead, busWrite, hr, ho, State.setHram, and_self]

/-- Settles O13: an offset into Work RAM and the same offset into its echo name one cell. -/
theorem echoRoundTrip : Obligations.EchoRoundTrip := by
  intro s v
  constructor
  · intro k hk
    have wram (t : State) := bus_wram t v (k := k) (by omega)
    have echo (t : State) := bus_echo t v (k := k) (by omega)
    simp only [wram, echo, State.wram_setWram, Memory.read_write_same, and_self]
  · intro a ha
    have hb := region_bounds a
    simp only [ha, Region.first, Region.size] at hb
    exact ⟨by simp only [busRead, ha], by omega⟩

/-! ### The I/O block: where no register is, and what a register reads as -/

section Block
variable {s : State} {a : Word} {r : IoReg} (hio : region a = .io)
include hio

/-- A bus read of a register is its observed value (R125). -/
theorem busRead_mapped (hr : s.cfg.ioAt a = some r) : busRead s a = s.io.observed r := by
  simp only [busRead, hio, ioRead, hr]

/-- A bus write to a register is its write rule (R125). -/
theorem busWrite_mapped (hr : s.cfg.ioAt a = some r) (v : Byte) : busWrite s a v = ioWriteReg s r v := by
  simp only [busWrite, hio, ioWrite, hr]

/-- Where no register is, a bus read is the constant of R129. -/
theorem busRead_unmapped (hr : s.cfg.ioAt a = none) : busRead s a = openBus := by
  simp only [busRead, hio, ioRead, hr]

/-- Where no register is, a bus write is ignored (R129). -/
theorem busWrite_unmapped (hr : s.cfg.ioAt a = none) (v : Byte) : busWrite s a v = s := by
  simp only [busWrite, hio, ioWrite, hr]

end Block

/-- A bus read forces bits of `IF` and of `STAT` only (R126 to R128). -/
theorem IoBlock.observed_eq_get (io : IoBlock) {r : IoReg} (hif : r ≠ .iflag) (hstat : r ≠ .stat) :
    io.observed r = io.get r := by
  cases r
  case iflag | stat => contradiction
  all_goals rfl

/-- The addresses of the block that the default `IOMAP` gives no register (R62, R129). -/
theorem default_ioAt_eq_none (k : Fin 128) :
    Config.default.ioAt (.ofNat 16 (0xFF00 + k.val)) = none ↔
      k.val = 0x03 ∨ (0x08 ≤ k.val ∧ k.val ≤ 0x0E) ∨ (0x27 ≤ k.val ∧ k.val ≤ 0x3F) ∨
      (0x4C ≤ k.val ∧ k.val ≤ 0x4F) ∨ 0x51 ≤ k.val := by
  revert k
  decide

/-- Settles O14: the observed value of each register, and the two policies where no register is. -/
theorem ioReadMasks : Obligations.IoReadMasks := by
  refine ⟨fun s a r hio hr => ?_, fun s a v hio hr => ⟨busRead_unmapped hio hr, busWrite_unmapped hio hr v⟩,
    default_ioAt_eq_none⟩
  rw [busRead_mapped hio hr]
  exact ⟨fun h => h ▸ rfl, fun h => h ▸ rfl, s.io.observed_eq_get⟩

/-! ### The write rules of the I/O block -/

/-- Without bit 7 a byte is its own low seven bits. -/
theorem and_0x7F_of_bit7_false {v : Byte} (h7 : v.getLsbD 7 = false) : v &&& 0x7F = v := by
  have hlt : 2 * v.toNat < 2 ^ 8 := BitVec.msb_eq_false_iff_two_mul_lt.1 h7
  apply BitVec.eq_of_toNat_eq
  calc (v &&& 0x7F).toNat = v.toNat % 2 ^ 7 := Nat.and_two_pow_sub_one_eq_mod v.toNat 7
    _ = v.toNat := Nat.mod_eq_of_lt (by omega)

/-- The rule of every register but `DMA`, and but `SC` in a serial transfer, only stores a byte (R130 to R141). -/
theorem ioWriteReg_store (s : State) {r : IoReg} {v : Byte} (hsc : ¬ (r = .sc ∧ v.getLsbD 7 = true))
    (hdma : r ≠ .dma) : ioWriteReg s r v = s.setIo r (storedAfter s.io r v) := by
  cases r
  case dma => contradiction
  case sc =>
    have h7 : v.getLsbD 7 = false := by simpa using hsc
    simp only [ioWriteReg, h7, storedAfter, and_0x7F_of_bit7_false h7, Bool.false_eq_true, if_false]
  all_goals rfl

/-- A serial transfer clears bit 7 of `SC`, sets bit 3 of `IF` and emits the stored `SB` (R132). -/
theorem ioWriteReg_transfer (s : State) {v : Byte} (h7 : v.getLsbD 7 = true) :
    ioWriteReg s .sc v = ((s.setIo .sc (v &&& 0x7F)).setIo .iflag (s.io.iflag ||| 0x08)).emit s.io.sb := by
  simp only [ioWriteReg, h7, if_true]
  rfl

/-- Address `i` of the page `v` (R142). -/
theorem joinBytes_page_add (v : Byte) (i : Nat) :
    joinBytes v 0x00 + .ofNat 16 i = BitVec.ofNat 16 (v.toNat * 256 + i) := by
  simp [joinBytes, BitVec.ofNat_add]

/-- A write to `DMA` stores the byte and installs an OAM of the 160 bytes that the bus reads from its page after the
store (R142). -/
theorem ioWriteReg_dma (s : State) (v : Byte) :
    ∃ m : Memory, ioWriteReg s .dma v = (s.setIo .dma v).setOam m ∧
      ∀ i, i < 160 → m.read i = busRead (s.setIo .dma v) (.ofNat 16 (v.toNat * 256 + i)) := by
  refine ⟨_, dmaCopy_eq _ _ _, fun i hi => ?_⟩
  rw [dmaCopy_read v 160 i _ le_rfl hi, joinBytes_page_add]

/-- The three kinds of write: a serial transfer, an OAM DMA, or a byte stored in the register and nothing else. -/
theorem ioWriteReg_cases (s : State) (r : IoReg) (v : Byte) :
    (r = .sc ∧ v.getLsbD 7 = true ∧
      ioWriteReg s r v = ((s.setIo r (storedAfter s.io r v)).setIo .iflag (s.io.iflag ||| 0x08)).emit s.io.sb) ∨
    (r = .dma ∧ ∃ m, ioWriteReg s r v = (s.setIo r (storedAfter s.io r v)).setOam m) ∨
    ioWriteReg s r v = s.setIo r (storedAfter s.io r v) := by
  by_cases hsc : r = .sc ∧ v.getLsbD 7 = true
  · obtain ⟨rfl, h7⟩ := hsc
    exact .inl ⟨rfl, h7, ioWriteReg_transfer s h7⟩
  by_cases hdma : r = .dma
  · subst hdma
    obtain ⟨m, h, -⟩ := ioWriteReg_dma s v
    exact .inr (.inl ⟨rfl, m, h⟩)
  · exact .inr (.inr (ioWriteReg_store s hsc hdma))

/-- After a write a register holds the byte its rule stores. -/
theorem get_ioWriteReg_same (s : State) (r : IoReg) (v : Byte) :
    (ioWriteReg s r v).io.get r = storedAfter s.io r v := by
  obtain ⟨rfl, -, h⟩ | ⟨-, m, h⟩ | h := ioWriteReg_cases s r v <;> simp [h, IoBlock.get_set]

/-- A write changes no other register, but `IF` by a serial transfer. -/
theorem get_ioWriteReg_other (s : State) {r q : IoReg} {v : Byte} (hq : q ≠ r)
    (hif : ¬ (r = .sc ∧ v.getLsbD 7 = true ∧ q = .iflag)) : (ioWriteReg s r v).io.get q = s.io.get q := by
  obtain ⟨rfl, h7, h⟩ | ⟨-, m, h⟩ | h := ioWriteReg_cases s r v
  · have hqif : q ≠ .iflag := fun e => hif ⟨rfl, h7, e⟩
    simp [h, IoBlock.get_set, hq, hqif]
  · simp [h, IoBlock.get_set, hq]
  · simp [h, IoBlock.get_set, hq]

/-- Only a write to `DMA` changes OAM. -/
theorem oam_ioWriteReg (s : State) {r : IoReg} (v : Byte) (hdma : r ≠ .dma) : (ioWriteReg s r v).oam = s.oam := by
  obtain ⟨-, -, h⟩ | ⟨h, -⟩ | h := ioWriteReg_cases s r v
  · simp [h]
  · contradiction
  · simp [h]

/-- Only a serial transfer changes the sink. -/
theorem serialOut_ioWriteReg (s : State) {r : IoReg} {v : Byte} (hsc : ¬ (r = .sc ∧ v.getLsbD 7 = true)) :
    (ioWriteReg s r v).serialOut = s.serialOut := by
  obtain ⟨hr, h7, -⟩ | ⟨-, m, h⟩ | h := ioWriteReg_cases s r v
  · exact absurd ⟨hr, h7⟩ hsc
  · simp [h]
  · simp [h]

/-- Settles O15: the three kinds of write, with what every write rule keeps. -/
theorem ioWriteMasks : Obligations.IoWriteMasks := by
  intro s a r v hio hr
  rw [busWrite_mapped hio hr]
  obtain ⟨regs, cfg, cart, ime, running, cycles, ie, vram, wram, hram, cram⟩ := ioWriteReg_keeps s r v
  exact ⟨get_ioWriteReg_same s r v, fun q => get_ioWriteReg_other s, oam_ioWriteReg s v, serialOut_ioWriteReg s,
    vram, wram, hram, cram, ie, regs, ime, running, cycles, cart, cfg⟩

/-- Settles O16: the two rules of `SC`, by bit 7 of the byte written. -/
theorem serialTransfer : Obligations.SerialTransfer := by
  intro s a v hio hr
  rw [busWrite_mapped hio hr]
  refine ⟨ioWriteReg_transfer s, fun h7 => ?_, get_ioWriteReg_same s .sc v⟩
  simp only [ioWriteReg, h7, Bool.false_eq_true, if_false, State.setIo, IoBlock.set]

/-- Settles O17: a write to `DMA` is the store of the byte and another OAM, which no address outside OAM reads. -/
theorem dmaCopiesPage : Obligations.DmaCopiesPage := by
  intro s a v hio hr
  rw [busWrite_mapped hio hr]
  obtain ⟨m, h, hread⟩ := ioWriteReg_dma s v
  rw [h]
  refine ⟨rfl, fun i hi => ?_, busRead_setOam_other _ m, rfl⟩
  exact (bus_oam _ v hi).1.trans (hread i hi)

end Sys2Proof.Machine
end

section
/-!
SUPPORT. What the proof about any one instruction needs: its row of the opcode map, and the frames of a change of
registers and of a bus write.
-/

namespace Sys2Proof

/-! ### The decoder by the length of the instruction (R202, R206) -/

theorem decode_of_length_one {op : Byte} (h : instrLength op = 1) (rest : List Byte) :
    decode (op :: rest) = .ok (decodeOne op (rest.getD 0 0) (rest.getD 1 0), rest) := by
  simp [decode, h]

theorem decode_of_length_two {op : Byte} (h : instrLength op = 2) (n : Byte) (rest : List Byte) :
    decode (op :: n :: rest) = .ok (decodeOne op n (rest.getD 0 0), rest) := by
  simp [decode, h]

theorem decode_of_length_three {op : Byte} (h : instrLength op = 3) (lo hi : Byte) (rest : List Byte) :
    decode (op :: lo :: hi :: rest) = .ok (decodeOne op lo hi, rest) := by
  simp [decode, h]

end Sys2Proof

namespace Sys2Proof.Machine

/-! ### Rows of the opcode map -/

section Rows
variable {i : Instr} {op : Byte} {base : Nat} (hcost : Config.default.baseCost i = base)
include hcost

/-- The row of a one-byte instruction: the decoder ignores what follows. -/
theorem row_one (hlen : instrLength op = 1) (hdec : ∀ b1 b2, decodeOne op b1 b2 = i) : Row i [op] base :=
  ⟨fun rest => (decode_of_length_one hlen rest).trans (by rw [hdec]), hcost⟩

/-- The row of a two-byte instruction. -/
theorem row_two {n : Byte} (hlen : instrLength op = 2) (hdec : ∀ b2, decodeOne op n b2 = i) : Row i [op, n] base :=
  ⟨fun rest => (decode_of_length_two hlen n rest).trans (by rw [hdec]), hcost⟩

/-- The row of an instruction whose operand is the word `nn`, low byte first. -/
theorem row_word {nn : Word} (hlen : instrLength op = 3) (hdec : decodeOne op (lo8 nn) (hi8 nn) = i) :
    Row i [op, lo8 nn, hi8 nn] base :=
  ⟨fun rest => (decode_of_length_three hlen _ _ rest).trans (by rw [hdec]), hcost⟩

end Rows

/-! ### Changes of the register file and of `cycles` -/

namespace State

@[simp] theorem get8_addCycles (s : State) (n : Nat) (r : Reg8) : (s.addCycles n).get8 r = s.get8 r := rfl
@[simp] theorem get16_addCycles (s : State) (n : Nat) (p : Reg16) : (s.addCycles n).get16 p = s.get16 p := rfl

@[simp] theorem get8_busWrite (s : State) (a : Word) (v : Byte) (r : Reg8) :
    (busWrite s a v).get8 r = s.get8 r := by
  simp [State.get8]

@[simp] theorem get16_busWrite (s : State) (a : Word) (v : Byte) (p : Reg16) :
    (busWrite s a v).get16 p = s.get16 p := by
  simp [State.get16]

@[simp] theorem get8_a_set16 (s : State) (p : Reg16) (w : Word) : (s.set16 p w).get8 .a = s.get8 .a :=
  Regs.a_set16 s.regs p w

@[simp] theorem get16_set8_a (s : State) (v : Byte) (p : Reg16) : (s.set8 .a v).get16 p = s.get16 p := by
  cases p <;> rfl

end State

/-- Another register file and another cycle count are no change outside them. -/
theorem sameOutsideRegs_regs_cycles (s : State) (g : Regs) (n : Nat) :
    SameOutsideRegs s { s with regs := g, cycles := n } :=
  ⟨fun _ => rfl, rfl, rfl, rfl, rfl, rfl, rfl, rfl⟩

/-! ### The frame of a bus write (20_memory.md R107, R118) -/

/-- Two addresses of one range have different offsets into it. -/
theorem offset_ne {a b : Word} (r : Region) (ha : region a = r) (hb : region b = r) (hne : a ≠ b) :
    b.toNat - r.first ≠ a.toNat - r.first := by
  have hna := (region_bounds a).1
  have hnb := (region_bounds b).1
  rw [ha] at hna
  rw [hb] at hnb
  have : a.toNat ≠ b.toNat := fun h => hne (BitVec.eq_of_toNat_eq h)
  omega

/-- An address of Work RAM and one of its echo that name different cells have different offsets. -/
theorem wram_echo_offset_ne {a b : Word} (ha : region a = .wram) (hb : region b = .echo)
    (hne : b.toNat ≠ a.toNat + 0x2000) : a.toNat - 0xC000 ≠ b.toNat - 0xE000 := by
  have hna := (region_bounds a).1
  have hnb := (region_bounds b).1
  simp only [ha, hb, Region.first] at hna hnb
  omega

/-- The interrupt-enable byte has one address (R110). -/
theorem eq_of_region_ie {a b : Word} (ha : region a = .ie) (hb : region b = .ie) : a = b := by
  have hna := region_bounds a
  have hnb := region_bounds b
  simp only [ha, hb, Region.first, Region.size] at hna hnb
  exact BitVec.eq_of_toNat_eq (by omega)

/-- What a register reads as depends on its own stored byte only. -/
theorem IoBlock.observed_congr {io io' : IoBlock} {q : IoReg} (h : io'.get q = io.get q) :
    io'.observed q = io.observed q := by
  cases q
  case iflag | stat => exact congrArg (· ||| _) h
  all_goals exact h

/-- A bus read depends on the cell behind its address only: only what the range of the address asks for has to agree. -/
theorem busRead_congr_cell {s t : State} {b : Word} (cart : t.cart = s.cart := by rfl)
    (vram : region b = .vram → t.vram.read (b.toNat - 0x8000) = s.vram.read (b.toNat - 0x8000) := by intro; rfl)
    (cram : region b = .cram → t.cram.read (b.toNat - 0xA000) = s.cram.read (b.toNat - 0xA000) := by intro; rfl)
    (wram : region b = .wram → t.wram.read (b.toNat - 0xC000) = s.wram.read (b.toNat - 0xC000) := by intro; rfl)
    (echo : region b = .echo → t.wram.read (b.toNat - 0xE000) = s.wram.read (b.toNat - 0xE000) := by intro; rfl)
    (oam : region b = .oam → t.oam.read (b.toNat - 0xFE00) = s.oam.read (b.toNat - 0xFE00) := by intro; rfl)
    (io : region b = .io → ioRead t b = ioRead s b := by intro; rfl)
    (hram : region b = .hram → t.hram.read (b.toNat - 0xFF80) = s.hram.read (b.toNat - 0xFF80) := by intro; rfl)
    (ie : region b = .ie → t.ie = s.ie := by intro; rfl) : busRead t b = busRead s b := by
  cases hb : region b <;> simp only [busRead, hb, cart]
  case vram => exact vram hb
  case cram => rw [cram hb]
  case wram => exact wram hb
  case echo => exact echo hb
  case oam => exact oam hb
  case io => exact io hb
  case hram => exact hram hb
  case ie => exact ie hb

/-- Outside the block a bus read does not depend on the block. -/
theorem busRead_setIo_other (s : State) (r : IoReg) (v : Byte) {b : Word} (hb : region b ≠ .io) :
    busRead (s.setIo r v) b = busRead s b :=
  busRead_congr_cell (io := fun h => absurd h hb)

/-- The write of one register of the block leaves every byte it does not touch. -/
theorem busRead_ioWriteReg_untouched {s : State} {a b : Word} {r : IoReg} {v : Byte} (ha : region a = .io)
    (hr : s.cfg.ioAt a = some r) (h : ¬ Touches s.cfg a v b) : busRead (ioWriteReg s r v) b = busRead s b := by
  obtain ⟨-, hcfg, -⟩ := ioWriteReg_keeps s r v
  by_cases hb : region b = .io
  · cases hq : s.cfg.ioAt b with
    | none => rw [busRead_unmapped hb hq, busRead_unmapped hb (by rw [hcfg, hq])]
    | some q =>
      rw [busRead_mapped hb hq, busRead_mapped hb (by rw [hcfg, hq])]
      have hne : q ≠ r := by
        rintro rfl
        exact h (.inl (.inr (.inr (.inr ⟨ha, hb, by rw [hr, hq], by simp [hr]⟩))))
      have hif : ¬ (r = .sc ∧ v.getLsbD 7 = true ∧ q = .iflag) := by
        rintro ⟨rfl, h7, rfl⟩
        exact h (.inr (.inr ⟨ha, hr, h7, hb, hq⟩))
      exact IoBlock.observed_congr (get_ioWriteReg_other s hne hif)
  · obtain ⟨rfl, -, e⟩ | ⟨rfl, m, e⟩ | e := ioWriteReg_cases s r v
    · rw [e, busRead_emit, busRead_setIo_other _ _ _ hb, busRead_setIo_other _ _ _ hb]
    · have hoam : region b ≠ .oam := fun hoam => h (.inr (.inl ⟨ha, hr, hoam⟩))
      rw [e, busRead_setOam_other _ _ _ hoam, busRead_setIo_other _ _ _ hb]
    · rw [e, busRead_setIo_other _ _ _ hb]

/-- A bus write leaves every byte it does not touch: the range of the address written has its bytes at other offsets
unchanged, and no other range is written. -/
theorem busRead_busWrite_untouched {s : State} {a b : Word} {v : Byte} (h : ¬ Touches s.cfg a v b) :
    busRead (busWrite s a v) b = busRead s b := by
  have hcell : ¬ SameCell s.cfg a b := fun hc => h (.inl hc)
  have hne : a ≠ b := fun e => hcell (.inl e)
  cases ha : region a <;> simp only [busWrite, ha]
  case vram => exact busRead_congr_cell (vram := fun hb => Memory.read_write_other _ _ _ _ (offset_ne .vram ha hb hne))
  case cram =>
    split
    · exact busRead_congr_cell (cram := fun hb => Memory.read_write_other _ _ _ _ (offset_ne .cram ha hb hne))
    · rfl
  case wram =>
    exact busRead_congr_cell
      (wram := fun hb => Memory.read_write_other _ _ _ _ (offset_ne .wram ha hb hne))
      (echo := fun hb => Memory.read_write_other _ _ _ _
        (wram_echo_offset_ne ha hb fun e => hcell (.inr (.inl ⟨ha, hb, e⟩))).symm)
  case echo =>
    exact busRead_congr_cell
      (wram := fun hb => Memory.read_write_other _ _ _ _
        (wram_echo_offset_ne hb ha fun e => hcell (.inr (.inr (.inl ⟨ha, hb, e⟩)))))
      (echo := fun hb => Memory.read_write_other _ _ _ _ (offset_ne .echo ha hb hne))
  case oam => exact busRead_congr_cell (oam := fun hb => Memory.read_write_other _ _ _ _ (offset_ne .oam ha hb hne))
  case io =>
    unfold ioWrite
    split
    · exact busRead_ioWriteReg_untouched ha ‹_› h
    · rfl
  case hram => exact busRead_congr_cell (hram := fun hb => Memory.read_write_other _ _ _ _ (offset_ne .hram ha hb hne))
  case ie => exact busRead_congr_cell (ie := fun hb => absurd (eq_of_region_ie ha hb) hne)

/-- A bus write, with another register file and another cycle count after it. -/
theorem storesByte_regs_cycles (s : State) (a : Word) (v : Byte) (g : Regs) (n : Nat) :
    StoresByte a v s { busWrite s a v with regs := g, cycles := n } :=
  ⟨sameOutsideRegs_regs_cycles _ g n, fun _ hb => busRead_busWrite_untouched hb⟩

end Sys2Proof.Machine
end

section
/-!
PROOFS of the family 40_load8.md: the 8-bit loads (R250 to R268).
-/

namespace Sys2Proof.Machine

/-! ### The shapes of the 8-bit loads -/

section Shapes
variable {i : Instr} {s : State}

/-- An instruction whose meaning is `load8` loads the byte and changes nothing else. -/
theorem loads_of_load8 {dst : Reg8} {v : Byte} (h : exec i s = load8 i dst v s) : Loads i s dst v :=
  ⟨_, h, ⟨by simp, fun r hr => by simp [hr], by simp, by simp⟩, by simp, sameOutsideRegs_regs_cycles s _ _, rfl⟩

/-- An instruction whose meaning is `store8` makes the bus write and changes nothing else. -/
theorem stores_of_store8 {a : Word} {v : Byte} (h : exec i s = store8 i a v s) : Stores i s a v :=
  ⟨_, h, storesByte_regs_cycles s a v _ _, ⟨by simp, by simp, by simp⟩, by simp, by simp [CostsBase]⟩

/-- What the loads that step HL leave of the register file, beside A (R265 to R268). -/
def KeepsBesideHl (s t : State) : Prop :=
  t.get16 .bc = s.get16 .bc ∧ t.get16 .de = s.get16 .de ∧ t.regs.sp = s.regs.sp ∧ t.regs.pc = s.regs.pc ∧
  t.regs.f = s.regs.f

/-- A load of A with another HL after it. -/
theorem load_and_move_hl {v : Byte} {w : Word} (h : exec i s = done i ((s.set8 .a v).set16 .hl w)) :
    ∃ t, exec i s = .next t ∧ t.get8 .a = v ∧ t.get16 .hl = w ∧ KeepsBesideHl s t ∧ SameOutsideRegs s t ∧
      CostsBase i s t :=
  ⟨_, h, by simp, by simp, ⟨by simp, by simp, rfl, rfl, rfl⟩, sameOutsideRegs_regs_cycles s _ _, rfl⟩

/-- A store of A with another HL after it. -/
theorem store_and_move_hl {a w : Word} {v : Byte} (h : exec i s = done i ((busWrite s a v).set16 .hl w)) :
    ∃ t, exec i s = .next t ∧ StoresByte a v s t ∧ t.get8 .a = s.get8 .a ∧ t.get16 .hl = w ∧ KeepsBesideHl s t ∧
      CostsBase i s t :=
  ⟨_, h, storesByte_regs_cycles s a v _ _, by simp, by simp,
    ⟨by simp, by simp, by simp [Regs.set16], by simp, by simp⟩, by simp [CostsBase]⟩

end Shapes

/-- The address of a high-page form, as a number (R261 to R264). -/
theorem highAddr_eq (n : Byte) : highAddr n = .ofNat 16 (0xFF00 + n.toNat) := by
  apply BitVec.eq_of_toNat_eq
  simp [highAddr, BitVec.toNat_add]

/-! ### Rows with a register code in the opcode -/

/-- The rows of `LD r,r'` (R250). -/
theorem row_ldRR (dst src : Reg8) : Row (.ldRR dst src) [.ofNat 8 (0x40 + 8 * dst.code + src.code)] 1 := by
  cases dst <;> cases src <;> exact row_one rfl rfl fun _ _ => rfl

/-- The rows of `LD r,n` (R251). -/
theorem row_ldRN (dst : Reg8) (n : Byte) : Row (.ldRN dst n) [.ofNat 8 (0x06 + 8 * dst.code), n] 2 := by
  cases dst <;> exact row_two rfl rfl fun _ => rfl

/-- The rows of `LD r,(HL)` (R252). -/
theorem row_ldRHl (dst : Reg8) : Row (.ldRHl dst) [.ofNat 8 (0x46 + 8 * dst.code)] 2 := by
  cases dst <;> exact row_one rfl rfl fun _ _ => rfl

/-- The rows of `LD (HL),r` (R253). -/
theorem row_ldHlR (src : Reg8) : Row (.ldHlR src) [.ofNat 8 (0x70 + src.code)] 2 := by
  cases src <;> exact row_one rfl rfl fun _ _ => rfl

/-! ### The obligations -/

/-- Settles O20: both are `load8`. -/
theorem loadFromRegisterOrByte : Obligations.LoadFromRegisterOrByte := by
  intro s dst r n
  exact ⟨row_ldRR dst r, loads_of_load8 rfl, row_ldRN dst n, loads_of_load8 rfl⟩

/-- Settles O21: each is `load8` of the byte the bus reads. -/
theorem loadFromMemory : Obligations.LoadFromMemory := by
  intro s dst n nn
  simp only [← highAddr_eq]
  exact ⟨row_ldRHl dst, loads_of_load8 rfl,
    row_one rfl rfl fun _ _ => rfl, loads_of_load8 rfl,
    row_one rfl rfl fun _ _ => rfl, loads_of_load8 rfl,
    row_word rfl rfl (congrArg Instr.ldANn (joinBytes_hi8_lo8 nn)), loads_of_load8 rfl,
    row_one rfl rfl fun _ _ => rfl, loads_of_load8 rfl,
    row_two rfl rfl fun _ => rfl, loads_of_load8 rfl⟩

/-- Settles O22: each is `store8`. -/
theorem storeToMemory : Obligations.StoreToMemory := by
  intro s r n nn
  simp only [← highAddr_eq]
  exact ⟨row_ldHlR r, stores_of_store8 rfl,
    row_two rfl rfl fun _ => rfl, stores_of_store8 rfl,
    row_one rfl rfl fun _ _ => rfl, stores_of_store8 rfl,
    row_one rfl rfl fun _ _ => rfl, stores_of_store8 rfl,
    row_word rfl rfl (congrArg Instr.ldNnA (joinBytes_hi8_lo8 nn)), stores_of_store8 rfl,
    row_one rfl rfl fun _ _ => rfl, stores_of_store8 rfl,
    row_two rfl rfl fun _ => rfl, stores_of_store8 rfl⟩

/-- Settles O23: each is a load or a store of A at the old HL, with HL one lower or higher after it. -/
theorem loadAndStepHl : Obligations.LoadAndStepHl := by
  intro s
  exact ⟨row_one rfl rfl fun _ _ => rfl, load_and_move_hl rfl,
    row_one rfl rfl fun _ _ => rfl, load_and_move_hl rfl,
    row_one rfl rfl fun _ _ => rfl, store_and_move_hl rfl,
    row_one rfl rfl fun _ _ => rfl, store_and_move_hl rfl⟩

end Sys2Proof.Machine
end

section
/-!
PROOFS of the family 41_load16_stack.md: the 16-bit loads, PUSH and POP (R300 to R309), and the 16-bit INC and DEC
(R381, R382).
-/

namespace Sys2Proof

/-! ### Pairs of the stack instructions -/

/-- SP is in no pair that `POP rr` names, so the write of the pair keeps it. -/
theorem Regs.sp_set16_pair (g : Regs) (p : StackPair) (w : Word) : (g.set16 p.pair w).sp = g.sp := by
  cases p <;> rfl

end Sys2Proof

namespace Sys2Proof.Machine

/-! ### The shapes of the 16-bit loads -/

/-- Two bus writes, with another register file and another cycle count after them. -/
theorem storesTwo_regs_cycles (s : State) (a : Word) (v : Byte) (b : Word) (w : Byte) (g : Regs) (n : Nat) :
    StoresTwo a v b w s { busWrite (busWrite s a v) b w with regs := g, cycles := n } := by
  refine ⟨sameOutsideRegs_regs_cycles _ g n, fun c hfirst hsecond => ?_⟩
  have hsecond' : ¬ Touches (busWrite s a v).cfg b w c := by rwa [cfg_busWrite]
  exact (busRead_busWrite_untouched hsecond').trans (busRead_busWrite_untouched hfirst)

section Shapes
variable {i : Instr} {s : State}

/-- An instruction whose meaning is a write of one pair or of SP loads the word and changes nothing else. -/
theorem loads16_of_set16 {p : Reg16} {w : Word} (h : exec i s = done i (s.set16 p w)) : Loads16 i s p w :=
  ⟨_, h, ⟨by simp, fun q hq => by simp [hq], by simp, by simp⟩, by simp, sameOutsideRegs_regs_cycles s _ _, rfl⟩

/-- An instruction whose meaning is `busWrite16` makes its two bus writes and changes nothing else (R301). -/
theorem stores_word_of_busWrite16 {a w : Word} (h : exec i s = done i (busWrite16 s a w)) :
    ∃ t, exec i s = .next t ∧ StoresTwo a (lo8 w) (a + 1) (hi8 w) s t ∧ SameRegs s t ∧ t.regs.f = s.regs.f ∧
      CostsBase i s t :=
  ⟨_, h, storesTwo_regs_cycles s _ _ _ _ _ _, ⟨by simp [busWrite16], by simp [busWrite16], by simp [busWrite16]⟩,
    by simp [busWrite16], by simp [busWrite16, CostsBase]⟩

/-- An instruction whose meaning is `push16` pushes the word and keeps pc (R305). -/
theorem pushes_of_push16 {w : Word} (h : exec i s = done i (push16 s w)) :
    ∃ t, exec i s = .next t ∧ Pushes w s t ∧ t.regs.pc = s.regs.pc ∧ CostsBase i s t := by
  rw [push16_eq] at h
  exact ⟨_, h, ⟨storesTwo_regs_cycles s _ _ _ _ _ _, rfl, by simp, by simp⟩, by simp, by simp [CostsBase]⟩

end Shapes

/-! ### What a pop leaves (R306) -/

/-- `POP rr`: SP is two higher and the pair holds the word that was on top (R308). -/
theorem exec_popRr (s : State) (p : StackPair) :
    exec (.popRr p) s = done (.popRr p) ((s.set16 .sp (s.regs.sp + 2)).set16 p.pair (stackTop s)) := by
  show done _ ((pop16 s).2.set16 p.pair (pop16 s).1) = _
  rw [pop16_eq, stackTop]

/-- `POP AF`: SP is two higher, A holds the high byte and F the low byte through the write of F (R309). -/
theorem exec_popAf (s : State) :
    exec .popAf s =
      done .popAf (((s.set16 .sp (s.regs.sp + 2)).set8 .a (busRead s (s.regs.sp + 1))).setF (busRead s s.regs.sp)) := by
  show done _ (((pop16 s).2.set8 .a (hi8 (pop16 s).1)).setF (lo8 (pop16 s).1)) = _
  rw [pop16_eq, hi8_joinBytes, lo8_joinBytes]

/-! ### Rows with a pair code in the opcode -/

/-- The rows of `LD rr,nn` (R300). -/
theorem row_ldRrNn (p : Reg16) (nn : Word) :
    Row (.ldRrNn p nn) [.ofNat 8 (0x01 + 16 * p.code), lo8 nn, hi8 nn] 3 := by
  cases p <;> exact row_word rfl rfl (congrArg (Instr.ldRrNn _) (joinBytes_hi8_lo8 nn))

/-- The rows of `INC rr` (R381). -/
theorem row_incRr (p : Reg16) : Row (.incRr p) [.ofNat 8 (0x03 + 16 * p.code)] 2 := by
  cases p <;> exact row_one rfl rfl fun _ _ => rfl

/-- The rows of `DEC rr` (R382). -/
theorem row_decRr (p : Reg16) : Row (.decRr p) [.ofNat 8 (0x0B + 16 * p.code)] 2 := by
  cases p <;> exact row_one rfl rfl fun _ _ => rfl

/-- The rows of `PUSH rr` (R304). -/
theorem row_pushRr (p : StackPair) : Row (.pushRr p) [.ofNat 8 (0xC5 + 16 * p.code)] 4 := by
  cases p <;> exact row_one rfl rfl fun _ _ => rfl

/-- The rows of `POP rr` (R308). -/
theorem row_popRr (p : StackPair) : Row (.popRr p) [.ofNat 8 (0xC1 + 16 * p.code)] 3 := by
  cases p <;> exact row_one rfl rfl fun _ _ => rfl

/-! ### The obligations -/

/-- Settles O24: each is one write of a pair or of SP. -/
theorem loadAndCount16 : Obligations.LoadAndCount16 := by
  intro s p nn
  exact ⟨row_ldRrNn p nn, loads16_of_set16 rfl,
    row_one rfl rfl fun _ _ => rfl, loads16_of_set16 rfl,
    row_incRr p, loads16_of_set16 rfl,
    row_decRr p, loads16_of_set16 rfl⟩

/-- Settles O25: it is `busWrite16` of SP. -/
theorem storeSp : Obligations.StoreSp := by
  intro s nn
  exact ⟨row_word rfl rfl (congrArg Instr.ldNnSp (joinBytes_hi8_lo8 nn)), stores_word_of_busWrite16 rfl⟩

/-- Settles O26: both are `push16`; the word of AF is its two bytes side by side. -/
theorem pushWord : Obligations.PushWord := by
  intro s p
  rw [← joinBytes_eq_append]
  exact ⟨row_pushRr p, pushes_of_push16 rfl, row_one rfl rfl fun _ _ => rfl, pushes_of_push16 rfl⟩

/-- Settles O27: both are the pop of one word, whose target is not SP. -/
theorem popWord : Obligations.PopWord := by
  intro s p
  refine ⟨row_popRr p, ⟨_, exec_popRr s p, ?pair, ?others, ?sp, ?a, ?f, ?pc, ?outside, rfl⟩,
    row_one rfl rfl fun _ _ => rfl, ⟨_, exec_popAf s, rfl, rfl, rfl, ?others8, rfl, ?outsideAf, rfl⟩⟩
  case pair | a | f | pc => simp
  case others => intro q hq hqsp; simp [hq, hqsp]
  case sp => exact Regs.sp_set16_pair _ p _
  case others8 => intro r hr; simp [hr]
  case outside | outsideAf => exact sameOutsideRegs_regs_cycles s _ _

end Sys2Proof.Machine
end

section
/-!
PROOFS of the family 42_alu8.md: the 8-bit arithmetic and logic (R330 to R365).
-/

namespace Sys2Proof.Machine

/-! ### Bytes as numbers -/

/-- A byte is zero exactly when its number is a multiple of 256. -/
theorem ofNat_beq_zero (k : Nat) : (BitVec.ofNat 8 k == 0) = decide (k % 256 = 0) := by
  rw [beq_eq_decide, decide_eq_decide, ← BitVec.toNat_inj, BitVec.toNat_ofNat]
  rfl

/-- A test of the low nibble of a byte, as a test of its number. -/
theorem and_0x0F_beq (v k : Byte) : (v &&& 0x0F == k) = decide (v.toNat % 16 = k.toNat) := by
  have hlow : (v &&& 0x0F).toNat = v.toNat % 16 := Nat.and_two_pow_sub_one_eq_mod v.toNat 4
  rw [beq_eq_decide, decide_eq_decide, ← BitVec.toNat_inj, hlow]

/-! ### The computations in numbers -/

/-- `Add8` (R330), its zero flag from the sum. -/
theorem add8_eq (a v : Byte) (cin : Bool) :
    add8 a v cin =
      (.ofNat 8 (a.toNat + v.toNat + cin.toNat),
        { z := decide ((a.toNat + v.toNat + cin.toNat) % 256 = 0)
          n := false
          h := decide (a.toNat % 16 + v.toNat % 16 + cin.toNat > 0x0F)
          c := decide (a.toNat + v.toNat + cin.toNat > 0xFF) }) := by
  simp only [add8, ofNat_beq_zero]

/-- `Sub8` (R331), its difference as a natural number modulo 256. -/
theorem sub8_eq (a v : Byte) (cin : Bool) :
    sub8 a v cin =
      (.ofNat 8 (256 + a.toNat - v.toNat - cin.toNat),
        { z := decide ((256 + a.toNat - v.toNat - cin.toNat) % 256 = 0)
          n := true
          h := decide (a.toNat % 16 < v.toNat % 16 + cin.toNat)
          c := decide (a.toNat < v.toNat + cin.toNat) }) := by
  have hres : BitVec.ofInt 8 ((a.toNat : Int) - v.toNat - cin.toNat) =
      BitVec.ofNat 8 (256 + a.toNat - v.toNat - cin.toNat) := by
    have := cin.toNat_le
    apply BitVec.eq_of_toNat_eq
    simp only [BitVec.toNat_ofInt, BitVec.toNat_ofNat]
    omega
  simp only [sub8, hres, ofNat_beq_zero]

/-- Without a borrow-in, the zero flag of `Sub8` says that the two bytes are equal. -/
theorem sub8_z_no_borrow_in (a v : Byte) : (sub8 a v false).2.z = decide (a = v) := by
  rw [sub8_eq, decide_eq_decide, ← BitVec.toNat_inj, Bool.toNat_false]
  omega

/-- 8-bit `INC` (R358). -/
theorem inc8_eq (v : Byte) (old : FlagSet) :
    inc8 v old =
      (.ofNat 8 (v.toNat + 1),
        { z := decide (v.toNat = 0xFF), n := false, h := decide (v.toNat % 16 + 1 > 0x0F), c := old.c }) := by
  have hres : v + 1 = BitVec.ofNat 8 (v.toNat + 1) := BitVec.eq_of_toNat_eq (by simp)
  have hz : (v.toNat + 1) % 256 = 0 ↔ v.toNat = 0xFF := by omega
  have hh : (v &&& 0x0F == 0x0F) = decide (v.toNat % 16 + 1 > 0x0F) := by
    rw [and_0x0F_beq, decide_eq_decide]
    bv_omega
  simp only [inc8, hres, ofNat_beq_zero, hz, hh]

/-- 8-bit `DEC` (R360). -/
theorem dec8_eq (v : Byte) (old : FlagSet) :
    dec8 v old =
      (.ofNat 8 (v.toNat + 0xFF),
        { z := decide (v.toNat = 0x01), n := true, h := decide (v.toNat % 16 < 1), c := old.c }) := by
  have hres : v - 1 = BitVec.ofNat 8 (v.toNat + 0xFF) :=
    BitVec.eq_of_toNat_eq (by simp [BitVec.toNat_sub, Nat.add_comm])
  have hz : (v.toNat + 0xFF) % 256 = 0 ↔ v.toNat = 0x01 := by omega
  have hh : (v &&& 0x0F == 0x00) = decide (v.toNat % 16 < 1) := by
    rw [and_0x0F_beq, decide_eq_decide]
    bv_omega
  simp only [dec8, hres, ofNat_beq_zero, hz, hh]

/-- The adjustment of `DAA` (R362): 0x06 for the low digit, 0x60 for the high one. -/
def daaAdjust (low high : Bool) : Nat := (if low then 0x06 else 0x00) + (if high then 0x60 else 0x00)

/-- `DAA` after an addition (R362): each of the two tests adds its own digit of the adjustment. -/
theorem daa8_of_add {a : Byte} {old : FlagSet} {low high : Bool} (hn : old.n = false)
    (hlow : low = true ↔ old.h = true ∨ a.toNat % 16 > 0x09)
    (hhigh : high = true ↔ old.c = true ∨ a.toNat > 0x99) :
    daa8 a old =
      (.ofNat 8 (a.toNat + daaAdjust low high),
        { z := decide ((a.toNat + daaAdjust low high) % 256 = 0), n := false, h := false, c := high }) := by
  have hl : (old.h || decide (a.toNat % 16 > 0x09)) = low := by
    rw [Bool.eq_iff_iff, hlow, Bool.or_eq_true, decide_eq_true_iff]
  have hh : (old.c || decide (a.toNat > 0x99)) = high := by
    rw [Bool.eq_iff_iff, hhigh, Bool.or_eq_true, decide_eq_true_iff]
  have hres : a + ((if low then 0x06 else 0x00) + (if high then 0x60 else 0x00)) =
      BitVec.ofNat 8 (a.toNat + daaAdjust low high) := by
    cases low <;> cases high <;> exact BitVec.eq_of_toNat_eq (by simp [daaAdjust])
  simp only [daa8, hn, hl, hh, hres, ofNat_beq_zero, Bool.false_eq_true, if_false]

/-- `DAA` after a subtraction (R362): the flags of the subtraction give the adjustment. -/
theorem daa8_of_sub {a : Byte} {old : FlagSet} (hn : old.n = true) :
    daa8 a old =
      (.ofNat 8 (256 + a.toNat - daaAdjust old.h old.c),
        { z := decide ((256 + a.toNat - daaAdjust old.h old.c) % 256 = 0), n := true, h := false, c := old.c }) := by
  have hres : a - ((if old.h then 0x06 else 0x00) + (if old.c then 0x60 else 0x00)) =
      BitVec.ofNat 8 (256 + a.toNat - daaAdjust old.h old.c) := by
    apply BitVec.eq_of_toNat_eq
    cases old.h <;> cases old.c <;> simp [daaAdjust, BitVec.toNat_sub] <;> omega
  simp only [daa8, hn, hres, ofNat_beq_zero, if_true]

/-- The complement of a byte, as a number. -/
theorem xor_0xFF_eq (v : Byte) : v ^^^ 0xFF = BitVec.ofNat 8 (255 - v.toNat) := by
  apply BitVec.eq_of_toNat_eq
  have hnot : v ^^^ 0xFF = ~~~v := BitVec.xor_allOnes
  rw [hnot, BitVec.toNat_not, BitVec.toNat_ofNat]
  omega

/-! ### The shapes of the 8-bit arithmetic and logic -/

@[simp] theorem State.flags_addCycles (s : State) (n : Nat) : (s.addCycles n).flags = s.flags := rfl

section Shapes
variable {i : Instr} {s : State}

/-- An instruction whose meaning is `modify8` (or `alu`, which is `modify8` on A) sets the register and the flags. -/
theorem sets_of_modify8 {dst : Reg8} {v : Byte} {z n h c : Bool}
    (hexec : exec i s = modify8 i dst (v, { z := z, n := n, h := h, c := c }) s) : Sets i s dst v z n h c :=
  ⟨_, hexec, ⟨by simp, fun r hr => by simp [hr], by simp, by simp⟩, ⟨by simp, by simp⟩,
    sameOutsideRegs_regs_cycles s _ _, rfl⟩

/-- An instruction whose meaning is a write of the flags sets them and changes nothing else. -/
theorem setsFlags_of_setFlags {z n h c : Bool}
    (hexec : exec i s = done i (s.setFlags { z := z, n := n, h := h, c := c })) : SetsFlags i s z n h c :=
  ⟨_, hexec, ⟨by simp, by simp, by simp⟩, ⟨by simp, by simp⟩, sameOutsideRegs_regs_cycles s _ _, rfl⟩

/-- An instruction whose meaning is `modifyHl` makes its bus write at HL and sets the flags. -/
theorem storesAtHl_of_modifyHl {v : Byte} {z n h c : Bool}
    (hexec : exec i s = modifyHl i (v, { z := z, n := n, h := h, c := c }) s) : StoresAtHl i s v z n h c :=
  ⟨_, hexec, storesByte_regs_cycles s s.hl v _ _, ⟨by simp [writeHl], by simp [writeHl], by simp [writeHl]⟩,
    ⟨by simp, by simp⟩, by simp [CostsBase, writeHl]⟩

/-- An addition to A (R330). -/
theorem addsToA_of_alu {v : Byte} (cin : Bool) (hexec : exec i s = alu i (add8 (s.get8 .a) v cin) s) :
    AddsToA i s v cin.toNat :=
  sets_of_modify8 (add8_eq _ _ _ ▸ hexec)

/-- A subtraction from A (R331). -/
theorem subtractsFromA_of_alu {v : Byte} (cin : Bool) (hexec : exec i s = alu i (sub8 (s.get8 .a) v cin) s) :
    SubtractsFromA i s v cin.toNat :=
  sets_of_modify8 (sub8_eq _ _ _ ▸ hexec)

/-- A comparison with A (R355): Z says that the two bytes are equal. -/
theorem comparesA_of_compare {v : Byte} (hexec : exec i s = compare i (sub8 (s.get8 .a) v false) s) :
    ComparesA i s v :=
  setsFlags_of_setFlags (hexec.trans (by rw [compare, ← sub8_z_no_borrow_in]; rfl))

/-- `DAA` after an addition (R362), by the outcomes of its two tests. -/
theorem daa_sets_of_add (low high : Bool) (hn : s.flags.n = false)
    (hlow : low = true ↔ s.flags.h = true ∨ (s.get8 .a).toNat % 16 > 0x09)
    (hhigh : high = true ↔ s.flags.c = true ∨ (s.get8 .a).toNat > 0x99) :
    Sets .daa s .a (.ofNat 8 ((s.get8 .a).toNat + daaAdjust low high))
      (decide (((s.get8 .a).toNat + daaAdjust low high) % 256 = 0)) false false high :=
  sets_of_modify8 (congrArg (modify8 .daa .a · s) (daa8_of_add hn hlow hhigh))

end Shapes

/-! ### Rows with a register code in the opcode -/

/-- The eight operations `alu[y] r` of the opcode map (R208). -/
def aluReg (y : Fin 8) (r : Reg8) : Instr :=
  match y with
  | 0 => .addAR r
  | 1 => .adcAR r
  | 2 => .subR r
  | 3 => .sbcAR r
  | 4 => .andR r
  | 5 => .xorR r
  | 6 => .orR r
  | 7 => .cpR r

/-- The rows of the eight operations on a register (R334 to R355). -/
theorem row_aluReg (y : Fin 8) (r : Reg8) : Row (aluReg y r) [.ofNat 8 (0x80 + 8 * y.val + r.code)] 1 := by
  fin_cases y <;> cases r <;> exact row_one rfl rfl fun _ _ => rfl

/-- The rows of `INC r` (R358). -/
theorem row_incR (r : Reg8) : Row (.incR r) [.ofNat 8 (0x04 + 8 * r.code)] 1 := by
  cases r <;> exact row_one rfl rfl fun _ _ => rfl

/-- The rows of `DEC r` (R360). -/
theorem row_decR (r : Reg8) : Row (.decR r) [.ofNat 8 (0x05 + 8 * r.code)] 1 := by
  cases r <;> exact row_one rfl rfl fun _ _ => rfl

/-! ### The obligations -/

/-- Settles O29: each is `Add8` of A, with no carry-in or with the carry flag. -/
theorem addToA : Obligations.AddToA := by
  intro s r n hl cy
  exact ⟨row_aluReg 0 r, addsToA_of_alu false rfl,
    row_one rfl rfl fun _ _ => rfl, addsToA_of_alu false rfl,
    row_two rfl rfl fun _ => rfl, addsToA_of_alu false rfl,
    row_aluReg 1 r, addsToA_of_alu s.flags.c rfl,
    row_one rfl rfl fun _ _ => rfl, addsToA_of_alu s.flags.c rfl,
    row_two rfl rfl fun _ => rfl, addsToA_of_alu s.flags.c rfl⟩

/-- Settles O30: each is `Sub8` from A, with no borrow-in or with the carry flag. -/
theorem subtractFromA : Obligations.SubtractFromA := by
  intro s r n hl cy
  exact ⟨row_aluReg 2 r, subtractsFromA_of_alu false rfl,
    row_one rfl rfl fun _ _ => rfl, subtractsFromA_of_alu false rfl,
    row_two rfl rfl fun _ => rfl, subtractsFromA_of_alu false rfl,
    row_aluReg 3 r, subtractsFromA_of_alu s.flags.c rfl,
    row_one rfl rfl fun _ _ => rfl, subtractsFromA_of_alu s.flags.c rfl,
    row_two rfl rfl fun _ => rfl, subtractsFromA_of_alu s.flags.c rfl⟩

/-- Settles O31: each is `Sub8` of A, of which only the flags are kept. -/
theorem compareA : Obligations.CompareA := by
  intro s r n
  exact ⟨row_aluReg 7 r, comparesA_of_compare rfl,
    row_one rfl rfl fun _ _ => rfl, comparesA_of_compare rfl,
    row_two rfl rfl fun _ => rfl, comparesA_of_compare rfl⟩

/-- Settles O32: each is `alu` of the operation on A. -/
theorem logicOnA : Obligations.LogicOnA := by
  intro s r n a v hl To
  exact ⟨row_aluReg 4 r, sets_of_modify8 rfl,
    row_one rfl rfl fun _ _ => rfl, sets_of_modify8 rfl,
    row_two rfl rfl fun _ => rfl, sets_of_modify8 rfl,
    row_aluReg 5 r, sets_of_modify8 rfl,
    row_one rfl rfl fun _ _ => rfl, sets_of_modify8 rfl,
    row_two rfl rfl fun _ => rfl, sets_of_modify8 rfl,
    row_aluReg 6 r, sets_of_modify8 rfl,
    row_one rfl rfl fun _ _ => rfl, sets_of_modify8 rfl,
    row_two rfl rfl fun _ => rfl, sets_of_modify8 rfl⟩

/-- Settles O33: both write the register, with the carry of the flags before. -/
theorem incDecRegister : Obligations.IncDecRegister := by
  intro s r v
  exact ⟨row_incR r, sets_of_modify8 (congrArg (modify8 _ r · s) (inc8_eq _ _)),
    row_decR r, sets_of_modify8 (congrArg (modify8 _ r · s) (dec8_eq _ _))⟩

/-- Settles O34: both write the byte at HL, with the carry of the flags before. -/
theorem incDecMemory : Obligations.IncDecMemory := by
  intro s v
  exact ⟨row_one rfl rfl fun _ _ => rfl, storesAtHl_of_modifyHl (congrArg (modifyHl _ · s) (inc8_eq _ _)),
    row_one rfl rfl fun _ _ => rfl, storesAtHl_of_modifyHl (congrArg (modifyHl _ · s) (dec8_eq _ _))⟩

/-- Settles O35: the four outcomes of the two tests after an addition, and the one case after a subtraction. -/
theorem decimalAdjust : Obligations.DecimalAdjust := by
  intro s a hc cc
  refine ⟨row_one rfl rfl fun _ _ => rfl, fun hn hlow hhigh => ?none, fun hn hlow hhigh => ?low,
    fun hn hlow hhigh => ?high, fun hn hlow hhigh => ?both, fun hn => ?sub⟩
  case none =>
    have hmod : a % 256 = a := Nat.mod_eq_of_lt (s.get8 .a).isLt
    rw [show decide (a = 0) = decide (a % 256 = 0) by rw [hmod]]
    exact daa_sets_of_add false false hn (iff_of_false nofun hlow) (iff_of_false nofun hhigh)
  case low => exact daa_sets_of_add true false hn (iff_of_true rfl hlow) (iff_of_false nofun hhigh)
  case high => exact daa_sets_of_add false true hn (iff_of_false nofun hlow) (iff_of_true rfl hhigh)
  case both => exact daa_sets_of_add true true hn (iff_of_true rfl hlow) (iff_of_true rfl hhigh)
  case sub => exact sets_of_modify8 (congrArg (modify8 .daa .a · s) (daa8_of_sub hn))

/-- Settles O37: each keeps the flags it does not name. -/
theorem complementAndCarry : Obligations.ComplementAndCarry := by
  intro s
  refine ⟨row_one rfl rfl fun _ _ => rfl, ?_,
    row_one rfl rfl fun _ _ => rfl, setsFlags_of_setFlags rfl,
    row_one rfl rfl fun _ _ => rfl, setsFlags_of_setFlags rfl⟩
  rw [← xor_0xFF_eq]
  exact sets_of_modify8 rfl

end Sys2Proof.Machine
end

section
/-!
PROOFS of the family 43_alu16.md: the 16-bit additions to HL and to SP (R380, R383 to R385).
-/

namespace Sys2Proof.Machine

/-- The sum of `AddSPe` (R383) as a number modulo 2^16: a displacement from 0x80 up counts 0xFF00 higher. -/
theorem add_sext16_eq (sp : Word) (e : Byte) :
    sp + sext16 e =
      .ofNat 16 (if e.toNat < 0x80 then sp.toNat + e.toNat else sp.toNat + 0xFF00 + e.toNat) := by
  apply BitVec.eq_of_toNat_eq
  unfold sext16
  split
  case isTrue => simp
  case isFalse => simp only [BitVec.toNat_add, BitVec.toNat_ofNat]; omega

/-- An instruction whose meaning is a write of one pair or of SP and a write of the flags sets both and changes nothing
else. -/
theorem sets16_of_set16_setFlags {i : Instr} {s : State} {p : Reg16} {w : Word} {z n h c : Bool}
    (hexec : exec i s = done i ((s.set16 p w).setFlags { z := z, n := n, h := h, c := c })) :
    Sets16 i s p w z n h c :=
  ⟨_, hexec, ⟨by simp, fun q hq => by simp [hq], by simp, by simp⟩, ⟨by simp, by simp⟩,
    sameOutsideRegs_regs_cycles s _ _, rfl⟩

/-- The rows of `ADD HL,rr` (R380). -/
theorem row_addHlRr (p : Reg16) : Row (.addHlRr p) [.ofNat 8 (0x09 + 16 * p.code)] 2 := by
  cases p <;> exact row_one rfl rfl fun _ _ => rfl

/-- Settles O38: it is `addWord` of HL and the pair, which keeps the Z of the flags before. -/
theorem addToHl : Obligations.AddToHl := by
  intro s p a b
  exact ⟨row_addHlRr p, sets16_of_set16_setFlags rfl⟩

/-- Settles O39: both are `AddSPe` of SP, the one written to SP and the other to HL. -/
theorem addDisplacementToSp : Obligations.AddDisplacementToSp := by
  intro s e sp sum h c
  have hsum : sum = s.regs.sp + sext16 e := (add_sext16_eq s.regs.sp e).symm
  rw [hsum]
  exact ⟨row_two rfl rfl fun _ => rfl, sets16_of_set16_setFlags rfl,
    row_two rfl rfl fun _ => rfl, sets16_of_set16_setFlags rfl⟩

end Sys2Proof.Machine
end

section
/-!
PROOFS of the family 44_rotate_shift_bit.md: the rotates and shifts, SWAP, and the bit instructions (R400 to R426).
-/

namespace Sys2Proof.Machine

/-! ### Bits as numbers -/

/-- A bit of a byte, as a test of its number. -/
theorem getLsbD_eq_decide (v : Byte) (k : Nat) : v.getLsbD k = decide (v.toNat / 2 ^ k % 2 = 1) :=
  Nat.testBit_eq_decide_div_mod_eq

theorem getLsbD_zero_eq_decide (v : Byte) : v.getLsbD 0 = decide (v.toNat % 2 = 1) := by
  rw [getLsbD_eq_decide, Nat.pow_zero, Nat.div_one]

theorem getLsbD_seven_eq_decide (v : Byte) : v.getLsbD 7 = decide (v.toNat ≥ 128) := by
  rw [getLsbD_eq_decide, decide_eq_decide]
  omega

theorem toNat_getLsbD_zero (v : Byte) : (v.getLsbD 0).toNat = v.toNat % 2 := by
  rw [BitVec.getLsbD, Nat.toNat_testBit, Nat.pow_zero, Nat.div_one]

theorem toNat_getLsbD_seven (v : Byte) : (v.getLsbD 7).toNat = v.toNat / 128 := by
  rw [BitVec.getLsbD, Nat.toNat_testBit]
  omega

theorem toNat_bitByte (b : Bool) : (bitByte b).toNat = b.toNat := by
  cases b <;> rfl

/-- Where the bits of the second byte lie below those of the first, `|` adds. -/
theorem toNat_or_of_dvd_of_lt {x y : Byte} (k : Nat) (hx : 2 ^ k ∣ x.toNat) (hy : y.toNat < 2 ^ k) :
    (x ||| y).toNat = x.toNat + y.toNat := by
  obtain ⟨m, hm⟩ := hx
  rw [BitVec.toNat_or, hm, Nat.two_pow_add_eq_or_of_lt hy]

/-! ### The eight byte operations in numbers (R400) -/

/-- A shift to the left with a bit moved in below. -/
theorem toNat_shiftLeft_or_bitByte (v : Byte) (b : Bool) :
    (v <<< 1 ||| bitByte b).toNat = v.toNat * 2 % 256 + b.toNat := by
  have hv : (v <<< 1).toNat = v.toNat * 2 % 256 := by
    rw [BitVec.toNat_shiftLeft, Nat.shiftLeft_eq]
  have hb := b.toNat_le
  rw [toNat_or_of_dvd_of_lt 1 (by omega) (by rw [toNat_bitByte]; omega), hv, toNat_bitByte]

/-- A shift to the right with a bit moved in above. -/
theorem toNat_ushiftRight_or_bitByte (v : Byte) (b : Bool) :
    (v >>> 1 ||| bitByte b <<< 7).toNat = v.toNat / 2 + b.toNat * 128 := by
  have hv : (v >>> 1).toNat = v.toNat / 2 := BitVec.toNat_ushiftRight v 1
  have hb : (bitByte b <<< 7).toNat = b.toNat * 128 := by cases b <;> rfl
  rw [BitVec.or_comm, toNat_or_of_dvd_of_lt 7 (by omega) (by omega), hv, hb, Nat.add_comm]

/-- The byte and the carry out of one of the operations are the byte `k` and the carry `c`. -/
def Computes (r : Byte × Bool) (k : Nat) (c : Bool) : Prop := r.1.toNat = k ∧ r.2 = c

section Operations
variable (v : Byte) (cin : Bool)

theorem computes_rlc : Computes (rlc v cin) (v.toNat * 2 % 256 + v.toNat / 128) (decide (v.toNat ≥ 128)) :=
  ⟨by rw [rlc, toNat_shiftLeft_or_bitByte, toNat_getLsbD_seven], getLsbD_seven_eq_decide v⟩

theorem computes_rrc : Computes (rrc v cin) (v.toNat / 2 + v.toNat % 2 * 128) (decide (v.toNat % 2 = 1)) :=
  ⟨by rw [rrc, toNat_ushiftRight_or_bitByte, toNat_getLsbD_zero], getLsbD_zero_eq_decide v⟩

theorem computes_rl : Computes (rl v cin) (v.toNat * 2 % 256 + cin.toNat) (decide (v.toNat ≥ 128)) :=
  ⟨toNat_shiftLeft_or_bitByte v cin, getLsbD_seven_eq_decide v⟩

theorem computes_rr : Computes (rr v cin) (v.toNat / 2 + cin.toNat * 128) (decide (v.toNat % 2 = 1)) :=
  ⟨toNat_ushiftRight_or_bitByte v cin, getLsbD_zero_eq_decide v⟩

theorem computes_sla : Computes (sla v cin) (v.toNat * 2 % 256) (decide (v.toNat ≥ 128)) :=
  ⟨by rw [sla, BitVec.toNat_shiftLeft, Nat.shiftLeft_eq], getLsbD_seven_eq_decide v⟩

/-- The bit that `SRA` moves in above is the old bit 7. -/
theorem computes_sra :
    Computes (sra v cin) (v.toNat / 2 + v.toNat / 128 * 128) (decide (v.toNat % 2 = 1)) := by
  have hsign : v &&& (0x80 : Byte) = bitByte (v.getLsbD 7) <<< 7 := by
    refine (BitVec.and_twoPow v 7).trans ?_
    cases v.getLsbD 7 <;> rfl
  exact ⟨by rw [sra, hsign, toNat_ushiftRight_or_bitByte, toNat_getLsbD_seven], getLsbD_zero_eq_decide v⟩

theorem computes_swap : Computes (swap v cin) (v.toNat % 16 * 16 + v.toNat / 16) false := by
  have hlow : (v &&& 0x0F).toNat = v.toNat % 16 := Nat.and_two_pow_sub_one_eq_mod v.toNat 4
  have hup : ((v &&& 0x0F) <<< 4).toNat = v.toNat % 16 * 16 := by
    rw [BitVec.toNat_shiftLeft, hlow, Nat.shiftLeft_eq]
    omega
  have hdown : (v >>> 4).toNat = v.toNat / 16 := by
    rw [BitVec.toNat_ushiftRight, Nat.shiftRight_eq_div_pow]
  exact ⟨by rw [swap, toNat_or_of_dvd_of_lt 4 (by omega) (by omega), hup, hdown], rfl⟩

theorem computes_srl : Computes (srl v cin) (v.toNat / 2) (decide (v.toNat % 2 = 1)) :=
  ⟨BitVec.toNat_ushiftRight v 1, getLsbD_zero_eq_decide v⟩

end Operations

/-! ### The bit operations (R421 to R426) -/

/-- The flags of `BIT` (R421), its Z as a test of the byte's number. -/
theorem bitFlags_eq (b : Fin 8) (v : Byte) (old : FlagSet) :
    bitFlags b v old = { z := decide (v.toNat / 2 ^ b.val % 2 = 0), n := false, h := true, c := old.c } := by
  have hz : (!v.getLsbD b.val) = decide (v.toNat / 2 ^ b.val % 2 = 0) := by
    rw [getLsbD_eq_decide, ← decide_not, decide_eq_decide]
    omega
  rw [bitFlags, hz]

/-- The mask `1 << b` has bit `b` alone. -/
theorem getLsbD_one_shiftLeft (b : Fin 8) (k : Nat) : ((0x01 : Byte) <<< b.val).getLsbD k = decide (k = b.val) := by
  refine (BitVec.getLsbD_twoPow b.val k).trans ?_
  simp [eq_comm]

theorem getLsbD_resBit (b : Fin 8) (v : Byte) {k : Nat} (hk : k < 8) :
    (resBit b v).getLsbD k = if k = b.val then false else v.getLsbD k := by
  have hmask : (0xFF : Byte) ^^^ ((0x01 : Byte) <<< b.val) = ~~~((0x01 : Byte) <<< b.val) := BitVec.allOnes_xor
  rw [resBit, hmask, BitVec.getLsbD_and, BitVec.getLsbD_not, getLsbD_one_shiftLeft]
  by_cases hb : k = b.val <;> simp [hb, hk]

theorem getLsbD_setBit (b : Fin 8) (v : Byte) (k : Nat) :
    (setBit b v).getLsbD k = if k = b.val then true else v.getLsbD k := by
  rw [setBit, BitVec.getLsbD_or, getLsbD_one_shiftLeft]
  by_cases hb : k = b.val <;> simp [hb]

/-! ### The shapes of the rotates and shifts -/

/-- The result of a rotate or shift in numbers: Z says that the byte is 0 (R405 to R420). -/
theorem shiftResult_eq {f : Byte → Bool → Byte × Bool} {v : Byte} {s : State} {k : Nat} {c : Bool}
    (hf : Computes (f v s.flags.c) k c) :
    shiftResult f v s = (.ofNat 8 k, { z := decide (k = 0), n := false, h := false, c := c }) := by
  obtain ⟨rfl, rfl⟩ := hf
  rw [shiftResult, shiftFlags, BitVec.ofNat_toNat, BitVec.setWidth_eq, beq_eq_decide]
  simp only [← BitVec.toNat_inj]
  rfl

/-- The result of an accumulator rotate in numbers: Z is 0 (R401 to R404). -/
theorem rotateResult_eq {f : Byte → Bool → Byte × Bool} {s : State} {k : Nat} {c : Bool}
    (hf : Computes (f (s.get8 .a) s.flags.c) k c) :
    rotateResult f s = (.ofNat 8 k, { z := false, n := false, h := false, c := c }) := by
  obtain ⟨rfl, rfl⟩ := hf
  rw [rotateResult, rotateFlags, BitVec.ofNat_toNat, BitVec.setWidth_eq]

section Shapes
variable {i : Instr} {s : State} {f : Byte → Bool → Byte × Bool} {k : Nat} {c : Bool}

/-- An instruction whose meaning is an accumulator rotate. -/
theorem sets_of_rotate (hf : Computes (f (s.get8 .a) s.flags.c) k c)
    (hexec : exec i s = alu i (rotateResult f s) s) : Sets i s .a (.ofNat 8 k) false false false c :=
  sets_of_modify8 (rotateResult_eq hf ▸ hexec)

/-- An instruction whose meaning is a rotate or shift of a register. -/
theorem shiftsReg_of_modify8 {r : Reg8} (hf : Computes (f (s.get8 r) s.flags.c) k c)
    (hexec : exec i s = modify8 i r (shiftResult f (s.get8 r) s) s) : ShiftsReg i s r k c :=
  sets_of_modify8 (shiftResult_eq hf ▸ hexec)

/-- An instruction whose meaning is a rotate or shift of the byte at HL. -/
theorem shiftsHl_of_modifyHl (hf : Computes (f (readHl s) s.flags.c) k c)
    (hexec : exec i s = modifyHl i (shiftResult f (readHl s) s) s) : ShiftsHl i s k c :=
  storesAtHl_of_modifyHl (shiftResult_eq hf ▸ hexec)

/-- An instruction whose meaning is a test of a bit. -/
theorem setsFlags_of_bitFlags {b : Fin 8} {v : Byte} (hexec : exec i s = done i (s.setFlags (bitFlags b v s.flags))) :
    SetsFlags i s (decide (v.toNat / 2 ^ b.val % 2 = 0)) false true s.flags.c :=
  setsFlags_of_setFlags (bitFlags_eq b v s.flags ▸ hexec)

end Shapes

/-! ### Rows of the second map (R209) -/

/-- The row of an instruction whose first byte is 0xCB. -/
theorem row_cb {i : Instr} {op2 : Byte} {base : Nat} (hcost : Config.default.baseCost i = base)
    (hdec : decodeCb op2 = i) : Row i [0xCB, op2] base :=
  row_two hcost rfl fun _ => hdec

/-- The eight operations `rot[y] r` of the second map. -/
def shiftReg (y : Fin 8) (r : Reg8) : Instr :=
  match y with
  | 0 => .rlcR r
  | 1 => .rrcR r
  | 2 => .rlR r
  | 3 => .rrR r
  | 4 => .slaR r
  | 5 => .sraR r
  | 6 => .swapR r
  | 7 => .srlR r

/-- The rows of the eight operations on a register (R405 to R419). -/
theorem row_shiftReg (y : Fin 8) (r : Reg8) : Row (shiftReg y r) [0xCB, .ofNat 8 (8 * y.val + r.code)] 2 := by
  fin_cases y <;> cases r <;> exact row_cb rfl rfl

/-- The rows of `BIT b,r` (R421). -/
theorem row_bitR (b : Fin 8) (r : Reg8) : Row (.bitR b r) [0xCB, .ofNat 8 (0x40 + 8 * b.val + r.code)] 2 := by
  fin_cases b <;> cases r <;> exact row_cb rfl rfl

/-- The rows of `RES b,r` (R423). -/
theorem row_resR (b : Fin 8) (r : Reg8) : Row (.resR b r) [0xCB, .ofNat 8 (0x80 + 8 * b.val + r.code)] 2 := by
  fin_cases b <;> cases r <;> exact row_cb rfl rfl

/-- The rows of `SET b,r` (R425). -/
theorem row_setR (b : Fin 8) (r : Reg8) : Row (.setR b r) [0xCB, .ofNat 8 (0xC0 + 8 * b.val + r.code)] 2 := by
  fin_cases b <;> cases r <;> exact row_cb rfl rfl

/-- The rows of `BIT b,(HL)` (R422). -/
theorem row_bitHl (b : Fin 8) : Row (.bitHl b) [0xCB, .ofNat 8 (0x46 + 8 * b.val)] 3 := by
  fin_cases b <;> exact row_cb rfl rfl

/-- The rows of `RES b,(HL)` (R424). -/
theorem row_resHl (b : Fin 8) : Row (.resHl b) [0xCB, .ofNat 8 (0x86 + 8 * b.val)] 4 := by
  fin_cases b <;> exact row_cb rfl rfl

/-- The rows of `SET b,(HL)` (R426). -/
theorem row_setHl (b : Fin 8) : Row (.setHl b) [0xCB, .ofNat 8 (0xC6 + 8 * b.val)] 4 := by
  fin_cases b <;> exact row_cb rfl rfl

/-! ### The obligations -/

/-- Settles O40: each is an operation of R400 on A, its flags without a test of the result. -/
theorem rotateA : Obligations.RotateA := by
  intro s v cy
  exact ⟨row_one rfl rfl fun _ _ => rfl, sets_of_rotate (computes_rlc _ _) rfl,
    row_one rfl rfl fun _ _ => rfl, sets_of_rotate (computes_rrc _ _) rfl,
    row_one rfl rfl fun _ _ => rfl, sets_of_rotate (computes_rl _ _) rfl,
    row_one rfl rfl fun _ _ => rfl, sets_of_rotate (computes_rr _ _) rfl⟩

/-- Settles O41: each is an operation of R400 on the register. -/
theorem shiftRegister : Obligations.ShiftRegister := by
  intro s r v cy
  exact ⟨row_shiftReg 0 r, shiftsReg_of_modify8 (computes_rlc _ _) rfl,
    row_shiftReg 1 r, shiftsReg_of_modify8 (computes_rrc _ _) rfl,
    row_shiftReg 2 r, shiftsReg_of_modify8 (computes_rl _ _) rfl,
    row_shiftReg 3 r, shiftsReg_of_modify8 (computes_rr _ _) rfl,
    row_shiftReg 4 r, shiftsReg_of_modify8 (computes_sla _ _) rfl,
    row_shiftReg 5 r, shiftsReg_of_modify8 (computes_sra _ _) rfl,
    row_shiftReg 6 r, shiftsReg_of_modify8 (computes_swap _ _) rfl,
    row_shiftReg 7 r, shiftsReg_of_modify8 (computes_srl _ _) rfl⟩

/-- Settles O42: each is an operation of R400 on the byte at HL. -/
theorem shiftMemory : Obligations.ShiftMemory := by
  intro s v cy
  exact ⟨row_cb rfl rfl, shiftsHl_of_modifyHl (computes_rlc _ _) rfl,
    row_cb rfl rfl, shiftsHl_of_modifyHl (computes_rrc _ _) rfl,
    row_cb rfl rfl, shiftsHl_of_modifyHl (computes_rl _ _) rfl,
    row_cb rfl rfl, shiftsHl_of_modifyHl (computes_rr _ _) rfl,
    row_cb rfl rfl, shiftsHl_of_modifyHl (computes_sla _ _) rfl,
    row_cb rfl rfl, shiftsHl_of_modifyHl (computes_sra _ _) rfl,
    row_cb rfl rfl, shiftsHl_of_modifyHl (computes_swap _ _) rfl,
    row_cb rfl rfl, shiftsHl_of_modifyHl (computes_srl _ _) rfl⟩

/-- Settles O43: both write the flags only, with the carry of the flags before. -/
theorem testBit : Obligations.TestBit := by
  intro s b r
  exact ⟨row_bitR b r, setsFlags_of_bitFlags rfl, row_bitHl b, setsFlags_of_bitFlags rfl⟩

/-- Settles O44: `load8` and `store8` of the byte with the one bit changed. -/
theorem changeBit : Obligations.ChangeBit := by
  intro s b r IsBit v hl
  exact ⟨row_resR b r, ⟨resBit b v, fun _ hk => getLsbD_resBit b v hk, loads_of_load8 rfl⟩,
    row_setR b r, ⟨setBit b v, fun k _ => getLsbD_setBit b v k, loads_of_load8 rfl⟩,
    row_resHl b, ⟨resBit b hl, fun _ hk => getLsbD_resBit b hl hk, stores_of_store8 rfl⟩,
    row_setHl b, ⟨setBit b hl, fun k _ => getLsbD_setBit b hl k, stores_of_store8 rfl⟩⟩

end Sys2Proof.Machine
end

section
/-!
PROOFS of the family 45_control_flow.md: the jumps, the calls and the returns (R451 to R462).
-/

namespace Sys2Proof.Machine

/-! ### The condition (R450) -/

/-- The model's test of a condition decides it. -/
theorem condTrue_iff_holds (cc : Cond) (s : State) : condTrue cc s = true ↔ Holds cc s := by
  cases cc <;> simp [condTrue, Holds]

section Conditional
variable {i : Instr} {s : State} {cc : Cond} {taken notTaken : Result}
  (hexec : exec i s = if condTrue cc s then taken else notTaken)
include hexec

theorem exec_of_holds (h : Holds cc s) : exec i s = taken :=
  hexec.trans (if_pos ((condTrue_iff_holds cc s).mpr h))

theorem exec_of_not_holds (h : ¬ Holds cc s) : exec i s = notTaken :=
  hexec.trans (if_neg fun hcond => h ((condTrue_iff_holds cc s).mp hcond))

end Conditional

/-! ### The target of a relative jump (R454) -/

/-- A byte extended to a word adds as the signed number it stands for, modulo 2^16. -/
theorem add_sext16_eq_ofInt (pc : Word) (e : Byte) : pc + sext16 e = .ofInt 16 (pc.toNat + e.toInt) := by
  have hsign := BitVec.toInt_eq_toNat_cond e
  rw [add_sext16_eq]
  apply BitVec.eq_of_toNat_eq
  simp only [BitVec.toNat_ofNat, BitVec.toNat_ofInt]
  split <;> omega

/-! ### What a call and a return leave of the stack -/

/-- What a call leaves: the word pushed, whatever pc and the cycle count are after it (R305). -/
theorem pushes_push16_setPc (s : State) (w target : Word) (n : Nat) :
    Pushes w s (((push16 s w).setPc target).addCycles n) := by
  rw [push16_eq]
  exact ⟨storesTwo_regs_cycles s _ _ _ _ _ _, rfl, by simp, by simp⟩

/-- What a return leaves: pc popped, with `ime` as it was or set (R306). -/
theorem returns_pop16_setPc (s : State) (ime : Bool) (n : Nat) :
    Returns ime s ((((pop16 s).2.setPc (pop16 s).1).setIme ime).addCycles n) := by
  rw [pop16_eq]
  exact ⟨rfl, rfl, fun _ => rfl, rfl, sameOutsideRegs_regs_cycles (s.setIme ime) _ _⟩

/-! ### The shapes of the control transfers -/

section Shapes
variable {i : Instr} {s : State}

/-- A routine that writes pc and reports no extra cycles jumps. -/
theorem jumps_of_setPc {w : Word} (h : exec i s = done i (s.setPc w)) : Jumps i s w :=
  ⟨_, h, ⟨fun _ => rfl, rfl, rfl, rfl⟩, sameOutsideRegs_regs_cycles s _ _, rfl⟩

/-- A routine that writes pc and reports its extra cycles is a taken jump. -/
theorem jumpsTaken_of_setPc {w : Word} (h : exec i s = doneTaken i (s.setPc w)) : JumpsTaken i s w :=
  ⟨_, h, ⟨fun _ => rfl, rfl, rfl, rfl⟩, sameOutsideRegs_regs_cycles s _ _, (Nat.add_assoc _ _ _).symm⟩

/-- A conditional transfer that is not taken leaves pc at the address after it: it writes back the pc it has. -/
theorem jumps_of_not_holds {cc : Cond} {taken : Result} (h : ¬ Holds cc s)
    (hexec : exec i s = if condTrue cc s then taken else done i s) : Jumps i s s.regs.pc :=
  jumps_of_setPc (exec_of_not_holds hexec h)

/-- A routine that pushes pc and jumps is a call. -/
theorem calls_of_push16 {target : Word} (h : exec i s = done i ((push16 s s.regs.pc).setPc target)) :
    ∃ t, exec i s = .next t ∧ Pushes s.regs.pc s t ∧ t.regs.pc = target ∧ CostsBase i s t :=
  ⟨_, h, pushes_push16_setPc s _ _ _, rfl, by simp [CostsBase, push16_eq]⟩

/-- The same with the extra cost: a conditional call that is taken. -/
theorem callsTaken_of_push16 {target : Word} (h : exec i s = doneTaken i ((push16 s s.regs.pc).setPc target)) :
    ∃ t, exec i s = .next t ∧ Pushes s.regs.pc s t ∧ t.regs.pc = target ∧ CostsTaken i s t :=
  ⟨_, h, pushes_push16_setPc s _ _ _, rfl, by simp [CostsTaken, push16_eq, Nat.add_assoc]⟩

end Shapes

/-- `RST t`: the target is eight times the code (R462). -/
theorem exec_rstT (s : State) (k : Fin 8) :
    exec (.rstT k) s = done (.rstT k) ((push16 s s.regs.pc).setPc (.ofNat 16 (8 * k.val))) := by
  rw [Nat.mul_comm]
  rfl

/-! ### Rows with a condition or a target in the opcode -/

/-- The rows of `JP cc,nn` (R452). -/
theorem row_jpCcNn (cc : Cond) (nn : Word) :
    Row (.jpCcNn cc nn) [.ofNat 8 (0xC2 + 8 * cc.code), lo8 nn, hi8 nn] 3 := by
  cases cc <;> exact row_word rfl rfl (congrArg (Instr.jpCcNn _) (joinBytes_hi8_lo8 nn))

/-- The rows of `JR cc,e` (R455). -/
theorem row_jrCcE (cc : Cond) (e : Byte) : Row (.jrCcE cc e) [.ofNat 8 (0x20 + 8 * cc.code), e] 2 := by
  cases cc <;> exact row_two rfl rfl fun _ => rfl

/-- The rows of `CALL cc,nn` (R457). -/
theorem row_callCcNn (cc : Cond) (nn : Word) :
    Row (.callCcNn cc nn) [.ofNat 8 (0xC4 + 8 * cc.code), lo8 nn, hi8 nn] 3 := by
  cases cc <;> exact row_word rfl rfl (congrArg (Instr.callCcNn _) (joinBytes_hi8_lo8 nn))

/-- The rows of `RET cc` (R459). -/
theorem row_retCc (cc : Cond) : Row (.retCc cc) [.ofNat 8 (0xC0 + 8 * cc.code)] 2 := by
  cases cc <;> exact row_one rfl rfl fun _ _ => rfl

/-- The rows of `RST t` (R462). -/
theorem row_rstT (k : Fin 8) : Row (.rstT k) [.ofNat 8 (0xC7 + 8 * k.val)] 4 := by
  fin_cases k <;> exact row_one rfl rfl fun _ _ => rfl

/-! ### The extra cost of a taken form -/

theorem extraCost_jpCcNn (cc : Cond) (nn : Word) : Config.default.extraCost (.jpCcNn cc nn) = 1 := by cases cc <;> rfl
theorem extraCost_jrCcE (cc : Cond) (e : Byte) : Config.default.extraCost (.jrCcE cc e) = 1 := by cases cc <;> rfl
theorem extraCost_callCcNn (cc : Cond) (nn : Word) : Config.default.extraCost (.callCcNn cc nn) = 3 := by
  cases cc <;> rfl
theorem extraCost_retCc (cc : Cond) : Config.default.extraCost (.retCc cc) = 3 := by cases cc <;> rfl

/-! ### The obligations -/

/-- Settles O45: each is one write of pc. -/
theorem jumpAbsolute : Obligations.JumpAbsolute := by
  intro s cc nn
  exact ⟨row_word rfl rfl (congrArg Instr.jpNn (joinBytes_hi8_lo8 nn)), jumps_of_setPc rfl,
    row_jpCcNn cc nn, extraCost_jpCcNn cc nn, fun h => jumpsTaken_of_setPc (exec_of_holds rfl h),
    fun h => jumps_of_not_holds h rfl,
    row_one rfl rfl fun _ _ => rfl, jumps_of_setPc rfl⟩

/-- Settles O46: each is one write of pc, to the sum with the extended byte. -/
theorem jumpRelative : Obligations.JumpRelative := by
  intro s cc e target
  have htarget : target = s.regs.pc + sext16 e := (add_sext16_eq_ofInt s.regs.pc e).symm
  rw [htarget]
  exact ⟨row_two rfl rfl fun _ => rfl, jumps_of_setPc rfl,
    row_jrCcE cc e, extraCost_jrCcE cc e, fun h => jumpsTaken_of_setPc (exec_of_holds rfl h),
    fun h => jumps_of_not_holds h rfl⟩

/-- Settles O47: each is a push of pc and a write of pc. -/
theorem callSubroutine : Obligations.CallSubroutine := by
  intro s cc nn k
  exact ⟨row_word rfl rfl (congrArg Instr.callNn (joinBytes_hi8_lo8 nn)), calls_of_push16 rfl,
    row_callCcNn cc nn, extraCost_callCcNn cc nn, fun h => callsTaken_of_push16 (exec_of_holds rfl h),
    fun h => jumps_of_not_holds h rfl,
    row_rstT k, calls_of_push16 (exec_rstT s k)⟩

/-- Settles O48: both pop pc and keep `ime`. -/
theorem returnFromSubroutine : Obligations.ReturnFromSubroutine := by
  intro s cc
  exact ⟨row_one rfl rfl fun _ _ => rfl, ⟨_, rfl, returns_pop16_setPc s s.ime _, rfl⟩,
    row_retCc cc, extraCost_retCc cc,
    fun h => ⟨_, exec_of_holds rfl h, returns_pop16_setPc s s.ime _, (Nat.add_assoc _ _ _).symm⟩,
    fun h => jumps_of_not_holds h rfl⟩

end Sys2Proof.Machine
end

section
/-!
PROOFS of the family 46_misc_control.md: NOP (R490) and the eleven illegal bytes (R496).
-/

namespace Sys2Proof

/-! ### The illegal bytes in the decoder (30_encoding.md R211, R216) -/

theorem instrLength_of_illegal {op : Byte} (h : op ∈ illegalOpcodes) : instrLength op = 1 := by
  revert op
  decide

/-- An illegal byte is its own instruction, whatever follows it. -/
theorem decodeOne_of_illegal {op : Byte} (h : op ∈ illegalOpcodes) (b1 b2 : Byte) :
    decodeOne op b1 b2 = .illegal op := by
  fin_cases h <;> rfl

theorem decode_of_illegal {op : Byte} (h : op ∈ illegalOpcodes) (rest : List Byte) :
    decode (op :: rest) = .ok (.illegal op, rest) := by
  rw [decode_of_length_one (instrLength_of_illegal h), decodeOne_of_illegal h]

end Sys2Proof

namespace Sys2Proof.Machine

/-- The unusable range reads as zero (20_memory.md R109). -/
theorem busRead_unusable {a : Word} (h : region a = .unusable) (s : State) : busRead s a = 0x00 := by
  simp only [busRead, h]

/-- A step at a zero byte runs NOP: the byte is not 0xCB, so the second table is not asked. -/
theorem step_of_zero_byte {s : State} (hrun : s.running = true) (hpc : busRead s s.regs.pc = 0x00)
    (hgap : (0x00 : Byte) ∉ s.cfg.gapsBase) : step s = exec .nop (s.setPc (s.regs.pc + 1)) := by
  have hcb : ¬ ((0x00 : Byte) = 0xCB ∧ busRead s (s.regs.pc + 1) ∈ s.cfg.gapsCb) := fun h => absurd h.1 (by decide)
  rw [step_running hrun, hpc, if_neg hgap, if_neg hcb]
  rfl

/-! ### The obligations -/

/-- Settles O8: the decoder yields the byte itself, and its meaning raises the fault. -/
theorem illegalBytesFault : Obligations.IllegalBytesFault := by
  intro s op hop
  exact ⟨decode_of_illegal hop, rfl⟩

/-- Settles O49: `exec` only adds the cost, and a step reads the byte 0x00 in either case. -/
theorem noOperation : Obligations.NoOperation := by
  intro s
  refine ⟨row_one rfl rfl fun _ _ => rfl, rfl, fun hrun hbyte hgap => ?_⟩
  have hpc : busRead s s.regs.pc = 0x00 := hbyte.elim id fun h => busRead_unusable h s
  exact step_of_zero_byte hrun hpc hgap

end Sys2Proof.Machine
end

section
/-!
PROOFS of the invariant: it holds at creation and after a load, and every step keeps it (10_state.md R43, R55 to R68).
-/

namespace Sys2Proof.Machine

/-! ### The invariant of the I/O block -/

/-- The bits of the block that no bus write can change (10_state.md R63 to R68). -/
structure IoBlock.Inv (io : IoBlock) : Prop where
  joypFixed : io.joyp &&& 0xCF = 0xCF
  statFixed : io.stat &&& 0x87 = 0x85
  scIdle : io.sc.getLsbD 7 = false
  lyZero : io.ly = 0x00
  divValues : io.div = 0xAB ∨ io.div = 0x00
  tacValues : io.tac = 0xF8 ∨ io.tac &&& 0xF8 = 0
  iflagHigh : io.iflag &&& 0xE0 = 0xE0 ∨ io.iflag &&& 0xE0 = 0

theorem State.Inv.ioInv {s : State} (h : s.Inv) : s.io.Inv where
  __ := h

/-- A write mask that keeps the bits `keep` of the old byte and takes only bits outside `seen` from the new one leaves
what `seen` shows. -/
theorem and_of_masked (old new keep take seen : Byte) (hkeep : keep &&& seen = seen) (htake : take &&& seen = 0) :
    ((old &&& keep) ||| (new &&& take)) &&& seen = old &&& seen := by
  rw [BitVec.and_or_distrib_right, BitVec.and_assoc, BitVec.and_assoc, hkeep, htake]
  simp

/-- A masked byte shows nothing outside its mask. -/
theorem and_and_eq_zero (v mask seen : Byte) (h : mask &&& seen = 0) : v &&& mask &&& seen = 0 := by
  rw [BitVec.and_assoc, h]
  exact BitVec.and_zero

/-- The byte a write rule stores keeps the invariant of the block. -/
theorem IoBlock.Inv.set_storedAfter {io : IoBlock} (h : io.Inv) (r : IoReg) (v : Byte) :
    (io.set r (storedAfter io r v)).Inv := by
  cases r
  case joyp => exact { h with joypFixed := (and_of_masked _ _ _ _ _ rfl rfl).trans h.joypFixed }
  case stat => exact { h with statFixed := (and_of_masked _ _ _ _ _ rfl rfl).trans h.statFixed }
  case sc => exact { h with scIdle := by simp [IoBlock.set, storedAfter] }
  case ly => exact h
  case div => exact { h with divValues := .inr rfl }
  case tac => exact { h with tacValues := .inr (and_and_eq_zero v 0x07 0xF8 rfl) }
  case iflag => exact { h with iflagHigh := .inr (and_and_eq_zero v 0x1F 0xE0 rfl) }
  all_goals exact { h with }

/-- The request of a serial transfer sets a low bit of `IF` only. -/
theorem IoBlock.Inv.set_iflag_or {io : IoBlock} (h : io.Inv) (old : Byte) (hold : old = io.iflag) :
    (io.set .iflag (old ||| 0x08)).Inv := by
  subst hold
  have hhigh : (io.iflag ||| 0x08) &&& 0xE0 = io.iflag &&& 0xE0 := by
    rw [BitVec.and_or_distrib_right]
    exact BitVec.or_zero
  exact { h with iflagHigh := by rw [IoBlock.set, hhigh]; exact h.iflagHigh }

/-! ### The invariant and the kinds of change -/

namespace State.Inv

variable {s : State} (h : s.Inv)
include h

/-- The invariant looks at the register file through F only. -/
theorem after_regs (g : Regs) (hf : g.f &&& 0x0F = 0) : State.Inv { s with regs := g } := { h with flagsLow := hf }

/-- The invariant looks at the block through its own invariant only. -/
theorem after_io (io : IoBlock) (hio : io.Inv) : State.Inv { s with io := io } := { hio, h with }

/-- The OAM DMA writes bytes within OAM. -/
theorem after_dmaCopy (base : Word) (n : Nat) (hn : n ≤ 160) : (dmaCopy base n s).Inv := by
  rw [dmaCopy_eq]
  exact { h with oamWf := ⟨dmaCopy_oam_wf base n h.oamWf.1, dmaCopy_oam_below base n 160 hn h.oamWf.2⟩ }

/-- Every write rule of the block: a byte stored, and after it the copy or the request of a transfer. -/
theorem after_ioWriteReg (r : IoReg) (v : Byte) : (ioWriteReg s r v).Inv := by
  have hstore : (s.setIo r (storedAfter s.io r v)).Inv := h.after_io _ (h.ioInv.set_storedAfter r v)
  by_cases hdma : r = .dma
  · subst hdma
    exact hstore.after_dmaCopy _ 160 le_rfl
  · obtain ⟨rfl, -, e⟩ | ⟨hr, -⟩ | e := ioWriteReg_cases s r v
    · rw [e]
      exact { hstore.after_io _ (hstore.ioInv.set_iflag_or s.io.iflag rfl) with }
    · exact absurd hr hdma
    · exact e ▸ hstore

/-- A bus write stays within the region of its address. -/
theorem after_busWrite (a : Word) (v : Byte) : (busWrite s a v).Inv := by
  have hb := region_bounds a
  cases ha : region a <;> simp only [ha, Region.first, Region.size] at hb <;> simp only [busWrite, ha]
  case romFixed | romSwitch | unusable => exact h
  case vram => exact { h with vramWf := ⟨Memory.write_wf h.vramWf.1 _ v, Memory.write_below h.vramWf.2 _ (by omega) v⟩ }
  case cram =>
    split
    · exact { h with cramWf := ⟨Memory.write_wf h.cramWf.1 _ v, Memory.write_below h.cramWf.2 _ ‹_› v⟩ }
    · exact h
  case wram | echo =>
    exact { h with wramWf := ⟨Memory.write_wf h.wramWf.1 _ v, Memory.write_below h.wramWf.2 _ (by omega) v⟩ }
  case oam => exact { h with oamWf := ⟨Memory.write_wf h.oamWf.1 _ v, Memory.write_below h.oamWf.2 _ (by omega) v⟩ }
  case io =>
    unfold ioWrite
    split
    · exact h.after_ioWriteReg _ v
    · exact h
  case hram => exact { h with hramWf := ⟨Memory.write_wf h.hramWf.1 _ v, Memory.write_below h.hramWf.2 _ (by omega) v⟩ }
  case ie => exact { h with }

/-- Each of the kinds of change a step is made of keeps the invariant. -/
theorem of_reaches {t : State} (hreach : Reaches s t) : t.Inv := by
  induction hreach with
  | refl => exact h
  | regs g _ hg ih => exact ih.after_regs g (hg ih.flagsLow)
  | bus a v _ ih => exact ih.after_busWrite a v
  | ime | running | cycles => rename_i ih; exact { ih with }

end State.Inv

/-- A region of which nothing is listed is canonical and within any size. -/
theorem Memory.empty_within (size : Nat) : Memory.wf [] ∧ Memory.below [] size :=
  ⟨⟨.nil, by simp⟩, by simp⟩

/-- The block that creation installs (10_state.md R62). -/
theorem IoBlock.inv_reset : IoBlock.reset.Inv := by
  constructor <;> decide

/-- Creation installs canonical RAM and the block at reset; there is no cartridge RAM. -/
theorem State.inv_created {cfg : Config} {init : InitMem} (hf : cfg.resetRegs.f &&& 0x0F = 0)
    (hvram : init.vram.wf ∧ init.vram.below 0x2000) (hwram : init.wram.wf ∧ init.wram.below 0x2000)
    (hoam : init.oam.wf ∧ init.oam.below 160) (hhram : init.hram.wf ∧ init.hram.below 127) :
    (State.created cfg init).Inv :=
  { IoBlock.inv_reset with
    flagsLow := hf, vramWf := hvram, wramWf := hwram, oamWf := hoam, hramWf := hhram
    cramWf := Memory.empty_within 0 }

/-! ### The obligations -/

/-- Settles O53: a step reaches its result by the kinds of change, each of which keeps the invariant. -/
theorem stepKeepsInv : Obligations.StepKeepsInv := by
  intro s hs
  obtain ⟨u, he, hu⟩ | ⟨table, op, addr, u, he, hu⟩ := step_reaches s <;> rw [he]
  · exact ⟨fun t ht => Host.Outcome.next.inj ht ▸ hs.of_reaches hu, nofun⟩
  · refine ⟨nofun, fun _ _ _ t ht => ?_⟩
    cases ht
    exact hs.of_reaches hu

/-- Settles O54: reset is a creation, and a load changes F and cartridge RAM only, of what the invariant looks at. -/
theorem resetHasInv : Obligations.ResetHasInv := by
  refine ⟨State.inv_created (by decide) ?_ ?_ ?_ ?_, fun _ _ => State.inv_created, fun s im hs hf hcram =>
    { hs with flagsLow := hf, cramWf := hcram }⟩ <;> exact Memory.empty_within _

end Sys2Proof.Machine
end

section
/-!
PROOFS of the decoder: decode and encode agree, both ways (30_encoding.md R202 to R217).
-/

namespace Sys2Proof.Machine

theorem wellFormed_illegal {op : Byte} : (Instr.illegal op).WellFormed ↔ op ∈ illegalOpcodes := by
  by_cases h : op ∈ illegalOpcodes <;> simp [Instr.WellFormed, Instr.illFormed, h]

/-! ### From an instruction to its bytes and back -/

/-- The bytes of `i`, whatever follows them, decode to `i`. -/
def DecodesBack (i : Instr) : Prop := ∀ rest, decode (encode i ++ rest) = .ok (i, rest)

/-- A row of the opcode map whose bytes are the encoding. -/
theorem Row.decodesBack {i : Instr} {base : Nat} (h : Row i (encode i) base) : DecodesBack i := h.1

/-- Every well-formed instruction has a row of the opcode map with the bytes of its encoding. -/
theorem decodesBack_of_wellFormed (i : Instr) (hwf : i.WellFormed) : DecodesBack i := by
  cases i with
  | ldRR dst src => exact (row_ldRR dst src).decodesBack
  | ldRN dst n => exact (row_ldRN dst n).decodesBack
  | ldRHl dst => exact (row_ldRHl dst).decodesBack
  | ldHlR src => exact (row_ldHlR src).decodesBack
  | ldRrNn p nn => exact (row_ldRrNn p nn).decodesBack
  | pushRr p => exact (row_pushRr p).decodesBack
  | popRr p => exact (row_popRr p).decodesBack
  | addAR r => exact (row_aluReg 0 r).decodesBack
  | adcAR r => exact (row_aluReg 1 r).decodesBack
  | subR r => exact (row_aluReg 2 r).decodesBack
  | sbcAR r => exact (row_aluReg 3 r).decodesBack
  | andR r => exact (row_aluReg 4 r).decodesBack
  | xorR r => exact (row_aluReg 5 r).decodesBack
  | orR r => exact (row_aluReg 6 r).decodesBack
  | cpR r => exact (row_aluReg 7 r).decodesBack
  | incR r => exact (row_incR r).decodesBack
  | decR r => exact (row_decR r).decodesBack
  | addHlRr p => exact (row_addHlRr p).decodesBack
  | incRr p => exact (row_incRr p).decodesBack
  | decRr p => exact (row_decRr p).decodesBack
  | jpCcNn cc nn => exact (row_jpCcNn cc nn).decodesBack
  | jrCcE cc e => exact (row_jrCcE cc e).decodesBack
  | callCcNn cc nn => exact (row_callCcNn cc nn).decodesBack
  | retCc cc => exact (row_retCc cc).decodesBack
  | rstT k => exact (row_rstT k).decodesBack
  | rlcR r => exact (row_shiftReg 0 r).decodesBack
  | rrcR r => exact (row_shiftReg 1 r).decodesBack
  | rlR r => exact (row_shiftReg 2 r).decodesBack
  | rrR r => exact (row_shiftReg 3 r).decodesBack
  | slaR r => exact (row_shiftReg 4 r).decodesBack
  | sraR r => exact (row_shiftReg 5 r).decodesBack
  | swapR r => exact (row_shiftReg 6 r).decodesBack
  | srlR r => exact (row_shiftReg 7 r).decodesBack
  | bitR b r => exact (row_bitR b r).decodesBack
  | bitHl b => exact (row_bitHl b).decodesBack
  | resR b r => exact (row_resR b r).decodesBack
  | resHl b => exact (row_resHl b).decodesBack
  | setR b r => exact (row_setR b r).decodesBack
  | setHl b => exact (row_setHl b).decodesBack
  | ldANn nn | ldNnA nn | ldNnSp nn | jpNn nn | callNn nn =>
    obtain ⟨hi, lo, rfl⟩ : ∃ hi lo, nn = joinBytes hi lo := ⟨_, _, (joinBytes_hi8_lo8 nn).symm⟩
    simp only [DecodesBack, encode, Instr.table, Instr.matchedByte, Instr.operandBytes, hi8_joinBytes, lo8_joinBytes]
    exact decode_of_length_three rfl lo hi
  | ldHlN | ldhAN | ldhNA | addAN | adcAN | subN | sbcAN | andN | xorN | orN | cpN | addSpE | ldHlSpE | jrE | stop =>
    simp only [DecodesBack, encode, Instr.table, Instr.matchedByte, Instr.operandBytes]
    exact decode_of_length_two rfl _
  | rlcHl | rrcHl | rlHl | rrHl | slaHl | sraHl | swapHl | srlHl => exact (row_cb rfl rfl).decodesBack
  | ldABc | ldADe | ldBcA | ldDeA | ldhAC | ldhCA | ldAHlDec | ldHlDecA | ldAHlInc | ldHlIncA | ldSpHl | pushAf | popAf
  | addAHl | adcAHl | subHl | sbcAHl | andHl | xorHl | orHl | cpHl | incHl | decHl | daa | cpl | scf | ccf
  | rlca | rrca | rla | rra | jpHl | ret | reti | nop | halt | di | ei =>
    exact decode_of_length_one rfl
  | prefixCb op2 => exact absurd hwf nofun
  | illegal op => exact decode_of_illegal (wellFormed_illegal.mp hwf)

/-! ### From bytes to an instruction and back -/

/-- To prove something of every byte, prove it for all values of its three fields (R208). -/
theorem byte_by_fields {P : Byte → Prop} (h : ∀ (x : Fin 4) (y z : Fin 8), P (.ofNat 8 (64 * x + 8 * y + z)))
    (b : Byte) : P b := by
  have hlt := b.isLt
  have hb : b = .ofNat 8 (64 * (b.toNat / 64) + 8 * (b.toNat / 8 % 8) + b.toNat % 8) := by
    apply BitVec.eq_of_toNat_eq
    simp only [BitVec.toNat_ofNat]
    omega
  rw [hb]
  exact h ⟨b.toNat / 64, by omega⟩ ⟨b.toNat / 8 % 8, by omega⟩ ⟨b.toNat % 8, by omega⟩

/-- The map after 0xCB is the inverse of its encoding (R209). -/
theorem encode_decodeCb (op2 : Byte) :
    (decodeCb op2).WellFormed ∧ (decodeCb op2).table = .cb ∧ encode (decodeCb op2) = [0xCB, op2] := by
  revert op2
  decide

/-- What the decoder reads is well-formed, and its encoding is the bytes it took. The two bytes after the opcode are
given as a word, so that no operand has to be taken apart and put together again. -/
theorem encode_decodeOne_word (op : Byte) (nn : Word) :
    (decodeOne op (lo8 nn) (hi8 nn)).WellFormed ∧
    encode (decodeOne op (lo8 nn) (hi8 nn)) = [op, lo8 nn, hi8 nn].take (instrLength op) := by
  unfold decodeOne
  rw [joinBytes_hi8_lo8]
  revert op
  refine byte_by_fields fun x y z => ?_
  fin_cases x <;> fin_cases y <;> fin_cases z
  any_goals exact ⟨rfl, rfl⟩
  -- The byte 0xCB is left: its instruction is that of the second map.
  obtain ⟨hwf, -, hbytes⟩ := encode_decodeCb (lo8 nn)
  exact ⟨hwf, hbytes⟩

theorem encode_decodeOne (b0 b1 b2 : Byte) :
    (decodeOne b0 b1 b2).WellFormed ∧ encode (decodeOne b0 b1 b2) = [b0, b1, b2].take (instrLength b0) := by
  simpa only [hi8_joinBytes, lo8_joinBytes] using encode_decodeOne_word b0 (joinBytes b2 b1)

/-- Only an illegal byte decodes to itself. -/
theorem decodeOne_eq_illegal {b0 b1 b2 op : Byte} (h : decodeOne b0 b1 b2 = .illegal op) :
    b0 = op ∧ op ∈ illegalOpcodes := by
  obtain ⟨hwf, hbytes⟩ := encode_decodeOne b0 b1 b2
  rw [h] at hwf hbytes
  have hop := wellFormed_illegal.mp hwf
  obtain hlen | hlen | hlen := instrLength_cases b0 <;> rw [hlen] at hbytes
  · exact ⟨(List.head_eq_of_cons_eq hbytes).symm, hop⟩
  · exact absurd hbytes nofun
  · exact absurd hbytes nofun

theorem decodeOne_ne_prefixCb (b0 b1 b2 op2 : Byte) : decodeOne b0 b1 b2 ≠ .prefixCb op2 := by
  intro h
  obtain ⟨hwf, -⟩ := encode_decodeOne b0 b1 b2
  rw [h] at hwf
  exact absurd hwf nofun

/-- Three bytes are enough for every instruction (R202). -/
theorem decode_three (b0 b1 b2 : Byte) :
    decode [b0, b1, b2] = .ok (decodeOne b0 b1 b2, [b0, b1, b2].drop (instrLength b0)) := by
  obtain hlen | hlen | hlen := instrLength_cases b0
  · rw [decode_of_length_one hlen, hlen]
    rfl
  · rw [decode_of_length_two hlen, hlen]
    rfl
  · rw [decode_of_length_three hlen, hlen]
    rfl

theorem decodeOne_of_decode_three {b0 b1 b2 : Byte} {i : Instr} {rest : List Byte}
    (h : decode [b0, b1, b2] = .ok (i, rest)) : decodeOne b0 b1 b2 = i := by
  rw [decode_three] at h
  exact congrArg Prod.fst (Except.ok.inj h)

/-! ### The obligations -/

/-- Settles O1: the rows of the opcode map, one per constructor. -/
theorem decodeEncode : Obligations.DecodeEncode := fun i rest hwf => decodesBack_of_wellFormed i hwf rest

/-- Settles O2: the opcode map by the fields of the first byte. -/
theorem encodeDecode : Obligations.EncodeDecode := by
  intro b0 b1 b2
  obtain ⟨hwf, hbytes⟩ := encode_decodeOne b0 b1 b2
  exact ⟨hwf, hbytes, fun h => decodeOne_of_illegal h b1 b2, fun h => (decodeOne_eq_illegal h).2⟩

/-- Settles O3: the decoder run on each word. -/
theorem decodeWords : Obligations.DecodeWords :=
  ⟨rfl, rfl, rfl, rfl, rfl, rfl, rfl, rfl, rfl, rfl, rfl, rfl, rfl, rfl, rfl, rfl, rfl, rfl, rfl⟩

end Sys2Proof.Machine
end

section
/-!
SUPPORT. The changes each instruction makes to the Console State, said once (10_state.md R49, R53, R70, R73).
-/

namespace Sys2Proof.Machine

/-! ### The byte 0xCB before the second table (46_misc_control.md R495) -/

/-- The second dispatch table is the dispatch on the instruction that the second map decodes. -/
theorem routineCb_eq_exec (op2 : Byte) (s : State) : routineCb op2 s = exec (decodeCb op2) s := by
  unfold routineCb decodeCb
  generalize op2.toNat / 64 = x, op2.toNat / 8 % 8 = y, reg8OfCode (op2.toNat % 8) = r
  match x, r, y with
  | 0, some _, 0 | 0, some _, 1 | 0, some _, 2 | 0, some _, 3 | 0, some _, 4 | 0, some _, 5 | 0, some _, 6 => rfl
  | 0, none, 0 | 0, none, 1 | 0, none, 2 | 0, none, 3 | 0, none, 4 | 0, none, 5 | 0, none, 6 => rfl
  | 0, some _, _ + 7 | 0, none, _ + 7 => rfl
  | 1, some _, _ | 1, none, _ | 2, some _, _ | 2, none, _ | _ + 3, some _, _ | _ + 3, none, _ => rfl

theorem exec_prefixCb {s : State} {op2 : Byte} (h : op2 ∉ s.cfg.gapsCb) :
    exec (.prefixCb op2) s = exec (decodeCb op2) s :=
  (if_neg h).trans (routineCb_eq_exec op2 s)

/-! ### The changes of an instruction -/

/-- One change an instruction makes to the Console State before its cost is counted. -/
inductive Change where
  | reg (r : Reg8) (v : Byte)
  | pair (p : Reg16) (w : Word)
  | flags (v : Byte)
  | pc (w : Word)
  | bus (a : Word) (v : Byte)
  | ime (b : Bool)
  | halt

/-- What a change does. -/
def Change.apply (s : State) : Change → State
  | .reg r v => s.set8 r v
  | .pair p w => s.set16 p w
  | .flags v => s.setF v
  | .pc w => s.setPc w
  | .bus a v => busWrite s a v
  | .ime b => s.setIme b
  | .halt => s.setRunning false

/-- Which instructions may make a change: the flags, pc, `ime` and `running` have their own lists (10_state.md R49, R53,
R70, R73). -/
def Change.AllowedBy (i : Instr) : Change → Prop
  | .flags _ => WritesFlags i
  | .pc _ => SetsPc i
  | .ime _ => i = .di ∨ i = .ei ∨ i = .reti
  | .halt => i = .halt ∨ ∃ n, i = .stop n
  | .reg _ _ | .pair _ _ | .bus _ _ => True

/-- The state after a list of changes. -/
abbrev applyAll (cs : List Change) (s : State) : State := cs.foldl Change.apply s

/-- `i` always completes: it makes the changes `cs s`, which it may make and which depend on the visible state only, and
then counts its cost. -/
structure ActsBy (i : Instr) (cs : State → List Change) : Prop where
  unseen : ∀ s, cs s.visible = cs s
  allowed : ∀ s, ∀ c ∈ cs s, c.AllowedBy i
  taken : ∀ s, Taken s i → exec i s = doneTaken i (applyAll (cs s) s)
  notTaken : ∀ s, ¬ Taken s i → exec i s = done i (applyAll (cs s) s)

/-- `i` has a routine: some changes describe it. -/
def Acts (i : Instr) : Prop := ∃ cs, ActsBy i cs

/-- The changes of a push (41_load16_stack.md R305). -/
def pushChanges (s : State) (w : Word) : List Change :=
  [.bus (s.regs.sp - 1) (hi8 w), .bus (s.regs.sp - 2) (lo8 w), .pair .sp (s.regs.sp - 2)]

theorem applyAll_push (s : State) (w : Word) (cs : List Change) :
    applyAll (pushChanges s w ++ cs) s = applyAll cs (push16 s w) := by
  rw [push16_eq, applyAll, List.foldl_append]
  rfl

/-- The changes of a return: SP two higher and pc the word on top (R306). -/
def returnChanges (s : State) : List Change := [.pair .sp (s.regs.sp + 2), .pc (stackTop s)]

theorem applyAll_return (s : State) (cs : List Change) :
    applyAll (returnChanges s ++ cs) s = applyAll cs ((pop16 s).2.setPc (pop16 s).1) := by
  rw [pop16_eq, applyAll, List.foldl_append]
  rfl

section Shapes
variable {i : Instr}

/-- An instruction that is not conditional. -/
theorem acts_of_done (cs : State → List Change)
    (hexec : ∀ s, exec i s = done i (applyAll (cs s) s) := by intro; rfl)
    (allowed : ∀ s, ∀ c ∈ cs s, c.AllowedBy i := by
      simp [Change.AllowedBy, WritesFlags, SetsPc, pushChanges, returnChanges])
    (unseen : ∀ s, cs s.visible = cs s := by intro; rfl)
    (unconditional : ∀ s, ¬ Taken s i := by exact fun _ => id) : Acts i :=
  ⟨cs, unseen, allowed, fun s h => absurd h (unconditional s), fun s _ => hexec s⟩

theorem acts_load8 {r : Reg8} {v : State → Byte} (hexec : ∀ s, exec i s = load8 i r (v s) s)
    (hv : ∀ s, v s.visible = v s := by intro; rfl)
    (unconditional : ∀ s, ¬ Taken s i := by exact fun _ => id) : Acts i :=
  acts_of_done (fun s => [.reg r (v s)]) hexec (by simp [Change.AllowedBy]) (by simp [hv]) unconditional

theorem acts_store8 {a : State → Word} {v : State → Byte} (hexec : ∀ s, exec i s = store8 i (a s) (v s) s)
    (ha : ∀ s, a s.visible = a s := by intro; rfl) (hv : ∀ s, v s.visible = v s := by intro; rfl)
    (unconditional : ∀ s, ¬ Taken s i := by exact fun _ => id) : Acts i :=
  acts_of_done (fun s => [.bus (a s) (v s)]) hexec (by simp [Change.AllowedBy]) (by simp [ha, hv]) unconditional

theorem acts_modify8 {z : Reg8} {r : State → Byte × FlagSet} (hexec : ∀ s, exec i s = modify8 i z (r s) s)
    (hr : ∀ s, r s.visible = r s := by intro; rfl) (writes : WritesFlags i := by trivial)
    (unconditional : ∀ s, ¬ Taken s i := by exact fun _ => id) : Acts i :=
  acts_of_done (fun s => [.reg z (r s).1, .flags (packF (r s).2)]) hexec (by simp [Change.AllowedBy, writes])
    (by simp [hr]) unconditional

theorem acts_compare {r : State → Byte × FlagSet} (hexec : ∀ s, exec i s = compare i (r s) s)
    (hr : ∀ s, r s.visible = r s := by intro; rfl) (writes : WritesFlags i := by trivial)
    (unconditional : ∀ s, ¬ Taken s i := by exact fun _ => id) : Acts i :=
  acts_of_done (fun s => [.flags (packF (r s).2)]) hexec (by simp [Change.AllowedBy, writes]) (by simp [hr])
    unconditional

theorem acts_modifyHl {r : State → Byte × FlagSet} (hexec : ∀ s, exec i s = modifyHl i (r s) s)
    (hr : ∀ s, r s.visible = r s := by intro; rfl) (writes : WritesFlags i := by trivial)
    (unconditional : ∀ s, ¬ Taken s i := by exact fun _ => id) : Acts i :=
  acts_of_done (fun s => [.bus s.hl (r s).1, .flags (packF (r s).2)]) hexec (by simp [Change.AllowedBy, writes])
    (fun s => by rw [hr]; rfl) unconditional

end Shapes

/-- A conditional control transfer makes its changes when the condition holds, and none otherwise. -/
theorem acts_of_cond {i : Instr} (cc : Cond) (cs : State → List Change)
    (hexec : ∀ s, exec i s = if condTrue cc s then doneTaken i (applyAll (cs s) s) else done i s)
    (htaken : ∀ s, Taken s i ↔ Holds cc s := by exact fun _ => Iff.rfl)
    (allowed : ∀ s, ∀ c ∈ cs s, c.AllowedBy i := by simp [Change.AllowedBy, SetsPc, pushChanges, returnChanges])
    (unseen : ∀ s, cs s.visible = cs s := by intro; rfl) : Acts i := by
  refine ⟨fun s => if condTrue cc s then cs s else [], fun s => ?_, fun s => ?_, fun s h => ?_, fun s h => ?_⟩
  · have hcond : condTrue cc s.visible = condTrue cc s := rfl
    rw [hcond, unseen]
  · split
    · exact allowed s
    · simp
  · have hholds := (htaken s).mp h
    rw [exec_of_holds (hexec s) hholds, if_pos ((condTrue_iff_holds cc s).mpr hholds)]
  · have hholds : ¬ Holds cc s := fun hh => h ((htaken s).mpr hh)
    rw [exec_of_not_holds (hexec s) hholds, if_neg fun hc => hholds ((condTrue_iff_holds cc s).mp hc)]
    rfl

/-- Every instruction but 0xCB alone and the illegal bytes has a routine. -/
theorem acts (i : Instr) (hprefix : ∀ op2, i ≠ .prefixCb op2) (hillegal : ∀ op, i ≠ .illegal op) : Acts i := by
  cases i with
  | prefixCb op2 => exact absurd rfl (hprefix op2)
  | illegal op => exact absurd rfl (hillegal op)
  | ldRR | ldRN | ldRHl | ldABc | ldADe | ldANn | ldhAC | ldhAN | resR | setR => exact acts_load8 fun _ => rfl
  | ldHlR | ldHlN | ldBcA | ldDeA | ldNnA | ldhCA | ldhNA | resHl | setHl => exact acts_store8 fun _ => rfl
  | addAR | addAHl | addAN | adcAR | adcAHl | adcAN | subR | subHl | subN | sbcAR | sbcAHl | sbcAN
  | andR | andHl | andN | xorR | xorHl | xorN | orR | orHl | orN | daa | rlca | rrca | rla | rra
  | incR | decR | rlcR | rrcR | rlR | rrR | slaR | sraR | swapR | srlR => exact acts_modify8 fun _ => rfl
  | cpR | cpHl | cpN => exact acts_compare fun _ => rfl
  | incHl | decHl | rlcHl | rrcHl | rlHl | rrHl | slaHl | sraHl | swapHl | srlHl =>
    exact acts_modifyHl fun _ => rfl
  | ldAHlDec => exact acts_of_done fun s => [.reg .a (readHl s), .pair .hl (s.hl - 1)]
  | ldAHlInc => exact acts_of_done fun s => [.reg .a (readHl s), .pair .hl (s.hl + 1)]
  | ldHlDecA => exact acts_of_done fun s => [.bus s.hl (s.get8 .a), .pair .hl (s.hl - 1)]
  | ldHlIncA => exact acts_of_done fun s => [.bus s.hl (s.get8 .a), .pair .hl (s.hl + 1)]
  | ldRrNn p nn => exact acts_of_done fun _ => [.pair p nn]
  | ldNnSp nn => exact acts_of_done fun s => [.bus nn (lo8 s.regs.sp), .bus (nn + 1) (hi8 s.regs.sp)]
  | ldSpHl => exact acts_of_done fun s => [.pair .sp s.hl]
  | incRr p => exact acts_of_done fun s => [.pair p (s.get16 p + 1)]
  | decRr p => exact acts_of_done fun s => [.pair p (s.get16 p - 1)]
  | pushRr p =>
    exact acts_of_done (fun s => pushChanges s (s.get16 p.pair) ++ []) fun s => by rw [applyAll_push]; rfl
  | pushAf =>
    exact acts_of_done (fun s => pushChanges s (joinBytes s.regs.a s.regs.f) ++ []) fun s => by rw [applyAll_push]; rfl
  | popRr p =>
    exact acts_of_done (fun s => [.pair .sp (s.regs.sp + 2), .pair p.pair (stackTop s)]) fun s => exec_popRr s p
  | popAf =>
    exact acts_of_done (fun s =>
      [.pair .sp (s.regs.sp + 2), .reg .a (busRead s (s.regs.sp + 1)), .flags (busRead s s.regs.sp)]) exec_popAf
  | cpl =>
    exact acts_of_done fun s => [.reg .a (s.get8 .a ^^^ 0xFF), .flags (packF { s.flags with n := true, h := true })]
  | scf => exact acts_of_done fun s => [.flags (packF { s.flags with n := false, h := false, c := true })]
  | ccf => exact acts_of_done fun s => [.flags (packF { s.flags with n := false, h := false, c := !s.flags.c })]
  | addHlRr p =>
    exact acts_of_done fun s => let r := addWord s.hl (s.get16 p) s.flags; [.pair .hl r.1, .flags (packF r.2)]
  | addSpE e => exact acts_of_done fun s => let r := addSpe s.regs.sp e; [.pair .sp r.1, .flags (packF r.2)]
  | ldHlSpE e => exact acts_of_done fun s => let r := addSpe s.regs.sp e; [.pair .hl r.1, .flags (packF r.2)]
  | bitR b z => exact acts_of_done fun s => [.flags (packF (bitFlags b (s.get8 z) s.flags))]
  | bitHl b => exact acts_of_done fun s => [.flags (packF (bitFlags b (readHl s) s.flags))]
  | jpNn nn => exact acts_of_done fun _ => [.pc nn]
  | jpHl => exact acts_of_done fun s => [.pc s.hl]
  | jrE e => exact acts_of_done fun s => [.pc (s.regs.pc + sext16 e)]
  | callNn nn =>
    exact acts_of_done (fun s => pushChanges s s.regs.pc ++ [.pc nn]) fun s => by rw [applyAll_push]; rfl
  | rstT k =>
    exact acts_of_done (fun s => pushChanges s s.regs.pc ++ [.pc (.ofNat 16 (k.val * 8))]) fun s => by
      rw [applyAll_push]; rfl
  | ret => exact acts_of_done (fun s => returnChanges s ++ []) fun s => by rw [applyAll_return]; rfl
  | reti => exact acts_of_done (fun s => returnChanges s ++ [.ime true]) fun s => by rw [applyAll_return]; rfl
  | jpCcNn cc nn => exact acts_of_cond cc (fun _ => [.pc nn]) fun _ => rfl
  | jrCcE cc e => exact acts_of_cond cc (fun s => [.pc (s.regs.pc + sext16 e)]) fun _ => rfl
  | callCcNn cc nn =>
    exact acts_of_cond cc (fun s => pushChanges s s.regs.pc ++ [.pc nn]) fun s => by rw [applyAll_push]; rfl
  | retCc cc => exact acts_of_cond cc (fun s => returnChanges s ++ []) fun s => by rw [applyAll_return]; rfl
  | nop => exact acts_of_done fun _ => []
  | halt => exact acts_of_done fun _ => [.halt]
  | stop n => exact acts_of_done fun _ => [.halt]
  | di => exact acts_of_done fun _ => [.ime false]
  | ei => exact acts_of_done fun _ => [.ime true]

end Sys2Proof.Machine
end

section
/-!
PROOFS of the bus over every address (20_memory.md R102 to R143), of the flags byte (10_state.md R43, R50), of PUSH AF
with POP AF (41_load16_stack.md R307, R309), of creation and loading (70_reset_and_hazards.md R570, R582), and of the
instructions of decisions D14 to D16 (46_misc_control.md R491 to R494).
-/

namespace Sys2Proof.Machine

/-! ### A bus write, over every address -/

/-- A register of the block reads, after a write, as the byte its rule stores, with the forced bits of `IF` and
`STAT`. -/
theorem busRead_busWrite_io {s : State} {a : Word} (v : Byte) (ha : region a = .io) :
    busRead (busWrite s a v) a = readBack s a v := by
  cases hr : s.cfg.ioAt a with
  | none => rw [busWrite_unmapped ha hr, busRead_unmapped ha hr]; simp only [readBack, ha, hr, openBus]
  | some r =>
    have hcfg : (ioWriteReg s r v).cfg.ioAt a = some r := by rw [(ioWriteReg_keeps s r v).2.1, hr]
    have hget := get_ioWriteReg_same s r v
    rw [busWrite_mapped ha hr, busRead_mapped ha hcfg]
    simp only [readBack, ha, hr]
    cases r
    case iflag | stat => exact congrArg (· ||| _) hget
    all_goals exact hget

/-- The sink grows by a serial transfer only (20_memory.md R132). -/
theorem serialOut_busWrite (s : State) (a : Word) (v : Byte) :
    (busWrite s a v).serialOut =
      if region a = .io ∧ s.cfg.ioAt a = some .sc ∧ v.getLsbD 7 = true then s.serialOut ++ [s.io.sb]
      else s.serialOut := by
  cases ha : region a
  case io =>
    cases hr : s.cfg.ioAt a with
    | none => simp [busWrite_unmapped ha hr]
    | some r =>
      rw [busWrite_mapped ha hr]
      by_cases hsc : r = .sc ∧ v.getLsbD 7 = true
      · obtain ⟨rfl, h7⟩ := hsc
        simp [ioWriteReg_transfer s h7, h7]
      · rw [serialOut_ioWriteReg s hsc, if_neg fun h => hsc ⟨Option.some.inj h.2.1, h.2.2⟩]
  case cram =>
    simp only [busWrite, ha]
    split <;> simp
  all_goals simp [busWrite, ha]

theorem serialOut_prefix_busWrite (s : State) (a : Word) (v : Byte) : s.serialOut <+: (busWrite s a v).serialOut := by
  rw [serialOut_busWrite]
  split
  · exact List.prefix_append _ _
  · exact List.prefix_rfl

/-- Settles O10: the read of the cell that the write went to. -/
theorem readAfterWrite : Obligations.ReadAfterWrite := by
  intro s a v
  cases ha : region a
  case io => exact busRead_busWrite_io v ha
  case cram =>
    by_cases hlen : a.toNat - 0xA000 < s.cart.cramLen <;> simp [busRead, busWrite, readBack, ha, hlen, openBus]
  all_goals simp [busRead, busWrite, readBack, ha]

/-- Settles O11: the frame of a bus write. -/
theorem writeTouchesOnly : Obligations.WriteTouchesOnly := fun _ _ _ _ h => busRead_busWrite_untouched h

/-- Settles O12: what a bus write keeps, and the sink. -/
theorem writeKeepsTheRest : Obligations.WriteKeepsTheRest := by
  intro s a v
  obtain ⟨hregs, hcfg, hcart, hime, hrunning, hcycles⟩ := busWrite_keeps s a v
  exact ⟨hregs, hime, hrunning, hcycles, hcart, hcfg, serialOut_busWrite s a v⟩

/-! ### The flags byte -/

/-- The flags are read from the high nibble only. -/
theorem unpackF_and_high (v : Byte) : unpackF (v &&& 0xF0) = unpackF v := by
  simp [unpackF]

/-- Settles O19: a write of F keeps the nibble the flags are read from. -/
theorem flagByte : Obligations.FlagByte := by
  intro s v z n h c
  exact ⟨rfl, ⟨unpackF_and_high v, State.low_setF s v⟩, ⟨State.flags_setFlags s _, State.low_setFlags s _⟩,
    packF_high _⟩

/-! ### PUSH AF, then POP AF -/

/-- The ranges whose bytes are stored as written: plain RAM. -/
abbrev plainRam : List Region := [.vram, .wram, .echo, .oam, .hram]

theorem readBack_of_plainRam {s : State} {a : Word} (v : Byte) (ha : region a ∈ plainRam) : readBack s a v = v := by
  cases hr : region a <;> rw [hr] at ha
  case vram | wram | echo | oam | hram => simp only [readBack, hr]
  all_goals exact absurd ha (by decide)

/-- A write in plain RAM touches no neighbouring address: a cell and its echo are 0x2000 apart. -/
theorem not_touches_next {cfg : Config} {a : Word} (v : Byte) (ha : region a ∈ plainRam) :
    ¬ Touches cfg a v (a + 1) := by
  have hio : region a ≠ .io := by
    intro h
    rw [h] at ha
    exact absurd ha (by decide)
  rintro ((h | ⟨-, -, h⟩ | ⟨-, -, h⟩ | ⟨h, -⟩) | ⟨h, -⟩ | ⟨h, -⟩)
  · bv_omega
  · bv_omega
  · bv_omega
  all_goals exact hio h

/-- A word pushed on plain RAM is the word on top of the stack. -/
theorem pushed_bytes {s : State} (w : Word) (hhi : region (s.regs.sp - 1) ∈ plainRam)
    (hlo : region (s.regs.sp - 2) ∈ plainRam) :
    busRead (push16 s w) (s.regs.sp - 2) = lo8 w ∧ busRead (push16 s w) (s.regs.sp - 1) = hi8 w := by
  have hnext : s.regs.sp - 2 + 1 = s.regs.sp - 1 := by bv_omega
  have hfree := not_touches_next (cfg := s.cfg) (lo8 w) hlo
  rw [hnext] at hfree
  rw [push16_eq, busRead_set16, busRead_set16]
  constructor
  · rw [readAfterWrite, readBack_of_plainRam _ hlo]
  · rw [busRead_busWrite_untouched (by rwa [cfg_busWrite]), readAfterWrite, readBack_of_plainRam _ hhi]

theorem regs_push16 (s : State) (w : Word) : (push16 s w).regs = { s.regs with sp := s.regs.sp - 2 } := by
  simp [push16_eq, Regs.set16]

/-- A byte without a low nibble is its own high nibble. -/
theorem and_high_of_low_zero {v : Byte} (h : v &&& 0x0F = 0) : v &&& 0xF0 = v :=
  calc v &&& 0xF0 = (v &&& 0xF0) ||| (v &&& 0x0F) := by rw [h]; exact BitVec.or_zero.symm
    _ = v &&& 0xFF := BitVec.and_or_distrib_left.symm
    _ = v := BitVec.and_allOnes

/-- Settles O28: the two bytes on the stack are A and F, and F has no low nibble to lose. -/
theorem pushPopRestoresAf : Obligations.PushPopRestoresAf := by
  intro s hlow hhi hlo
  obtain ⟨hf, ha⟩ := pushed_bytes (joinBytes s.regs.a s.regs.f) hhi hlo
  refine ⟨_, _, rfl, exec_popAf _, ?_⟩
  have hsp : s.regs.sp - 2 + 1 = s.regs.sp - 1 := by bv_omega
  have hsp' : s.regs.sp - 2 + 2 = s.regs.sp := by bv_omega
  simp only [State.regs_addCycles, State.regs_setF, State.regs_set8, State.regs_set16, busRead_addCycles, regs_push16,
    Regs.set8, Regs.set16, hsp, hsp', hf, ha, hi8_joinBytes, lo8_joinBytes, and_high_of_low_zero hlow]

/-! ### Creation and loading -/

/-- Settles O52: creation has a cartridge of no bytes, and a load is the update it is defined as. -/
theorem creationAndLoad : Obligations.CreationAndLoad := by
  refine ⟨fun cfg init => ⟨rfl, rfl, rfl, rfl, rfl, fun a ha => ?_⟩, fun s => rfl,
    fun s im => ⟨rfl, rfl, fun hrom hlen => ?_⟩⟩
  · cases hr : region a <;> rw [hr] at ha
    case romFixed | romSwitch | cram =>
      simp [busRead, busWrite, hr, State.created, Cartridge.none, openBus]
    all_goals exact absurd ha (by decide)
  · obtain hr | hr := region_rom hrom <;> simp only [busRead, loadCartridge, hr] <;> exact if_pos hlen

/-! ### HALT, STOP, DI, EI, RETI -/

/-- Settles O50: each meaning as it is defined; RETI is the return that sets `ime`. -/
theorem haltStopAndInterruptEnable : Obligations.HaltStopAndInterruptEnable := by
  intro s n
  exact ⟨row_one rfl rfl fun _ _ => rfl, rfl, row_two rfl rfl fun _ => rfl, rfl, row_one rfl rfl fun _ _ => rfl, rfl,
    row_one rfl rfl fun _ _ => rfl, rfl, row_one rfl rfl fun _ _ => rfl, _, rfl, returns_pop16_setPc s true _, rfl⟩

end Sys2Proof.Machine
end

section
/-!
PROOFS of decimal arithmetic: `DAA` after `ADD` and after `SUB` (42_alu8.md R330, R331, R362).
-/

namespace Sys2Proof.Machine

/-- The two-digit decimal number `k` as a byte, one digit per nibble. -/
def bcd (k : Nat) : Byte := .ofNat 8 (k / 10 * 16 + k % 10)

theorem toNat_bcd {p q : Nat} (hp : p < 10) (hq : q < 10) : (bcd (10 * p + q)).toNat = 16 * p + q := by
  rw [bcd, BitVec.toNat_ofNat]
  omega

theorem ofNat_eq_bcd {n k d e : Nat} (hd : d < 10) (he : e < 10) (hk : k = 10 * d + e) (hn : n % 256 = 16 * d + e) :
    BitVec.ofNat 8 n = bcd k := by
  apply BitVec.eq_of_toNat_eq
  rw [hk, toNat_bcd hd he, BitVec.toNat_ofNat, ← hn]

theorem two_digits {x : Nat} (h : x < 100) : ∃ p q, p < 10 ∧ q < 10 ∧ x = 10 * p + q :=
  ⟨x / 10, x % 10, by omega, by omega, by omega⟩

/-- The sum of two digits and a carry is a digit and a carry. -/
theorem add_digits {p q : Nat} (hp : p < 10) (hq : q < 10) (cin : Bool) :
    ∃ (d : Nat) (c : Bool), d < 10 ∧ p + q + cin.toNat = 10 * c.toNat + d := by
  have := cin.toNat_le
  by_cases h : p + q + cin.toNat < 10
  · exact ⟨_, false, h, by simp⟩
  · exact ⟨p + q + cin.toNat - 10, true, by omega, by simp only [Bool.toNat_true]; omega⟩

/-- The difference of two digits and a borrow is a digit and a borrow. -/
theorem sub_digits {p q : Nat} (hp : p < 10) (hq : q < 10) (bin : Bool) :
    ∃ (d : Nat) (b : Bool), d < 10 ∧ p + 10 * b.toNat = q + bin.toNat + d := by
  have := bin.toNat_le
  by_cases h : p < q + bin.toNat
  · exact ⟨p + 10 - q - bin.toNat, true, by omega, by simp only [Bool.toNat_true]; omega⟩
  · exact ⟨p - q - bin.toNat, false, by omega, by simp only [Bool.toNat_false]; omega⟩

theorem daaAdjust_eq (low high : Bool) : daaAdjust low high = 6 * low.toNat + 96 * high.toNat := by
  cases low <;> cases high <;> rfl

/-- After an addition each digit that carried is 6 too low: the units lose 10 and give 16, the tens lose 160 and give
256. -/
theorem daa8_add8_bcd {x y : Nat} (hx : x < 100) (hy : y < 100) :
    let r := add8 (bcd x) (bcd y) false
    (daa8 r.1 r.2).1 = bcd ((x + y) % 100) ∧ (daa8 r.1 r.2).2.c = decide (x + y ≥ 100) := by
  intro r
  obtain ⟨p, q, hp, hq, rfl⟩ := two_digits hx
  obtain ⟨u, v, hu, hv, rfl⟩ := two_digits hy
  obtain ⟨e, low, he, hunits⟩ := add_digits hq hv false
  obtain ⟨d, high, hd, htens⟩ := add_digits hp hu low
  have hr : r = add8 (bcd (10 * p + q)) (bcd (10 * u + v)) false := rfl
  rw [add8_eq, toNat_bcd hp hq, toNat_bcd hu hv] at hr
  simp only [Bool.toNat_false, Nat.add_zero] at hr hunits
  have hlow : low = true ↔ r.2.h = true ∨ r.1.toNat % 16 > 0x09 := by
    simp only [hr, BitVec.toNat_ofNat, decide_eq_true_eq]
    cases low <;> simp only [Bool.toNat_true, Bool.toNat_false, Bool.false_eq_true, false_iff, true_iff] at hunits ⊢ <;>
      omega
  have hhigh : high = true ↔ r.2.c = true ∨ r.1.toNat > 0x99 := by
    simp only [hr, BitVec.toNat_ofNat, decide_eq_true_eq]
    cases low <;> cases high <;>
      simp only [Bool.toNat_true, Bool.toNat_false, Bool.false_eq_true, false_iff, true_iff] at hunits htens ⊢ <;>
      omega
  rw [daa8_of_add (by rw [hr]) hlow hhigh, daaAdjust_eq, hr]
  constructor
  · have := low.toNat_le
    have := high.toNat_le
    exact ofNat_eq_bcd hd he (by omega) (by rw [BitVec.toNat_ofNat]; omega)
  · symm
    cases high <;>
      simp only [Bool.toNat_true, Bool.toNat_false, decide_eq_true_eq, decide_eq_false_iff_not] at htens ⊢ <;> omega

/-- After a subtraction each digit that borrowed is 6 too high. -/
theorem daa8_sub8_bcd {x y : Nat} (hx : x < 100) (hy : y < 100) :
    let r := sub8 (bcd x) (bcd y) false
    (daa8 r.1 r.2).1 = bcd ((100 + x - y) % 100) ∧ (daa8 r.1 r.2).2.c = decide (x < y) := by
  intro r
  obtain ⟨p, q, hp, hq, rfl⟩ := two_digits hx
  obtain ⟨u, v, hu, hv, rfl⟩ := two_digits hy
  obtain ⟨e, low, he, hunits⟩ := sub_digits hq hv false
  obtain ⟨d, high, hd, htens⟩ := sub_digits hp hu low
  have hr : r = sub8 (bcd (10 * p + q)) (bcd (10 * u + v)) false := rfl
  rw [sub8_eq, toNat_bcd hp hq, toNat_bcd hu hv] at hr
  simp only [Bool.toNat_false, Nat.add_zero, Nat.sub_zero] at hr hunits
  have hlow : r.2.h = low := by
    simp only [hr]
    cases low <;>
      simp only [Bool.toNat_true, Bool.toNat_false, decide_eq_true_eq, decide_eq_false_iff_not] at hunits ⊢ <;> omega
  have hhigh : r.2.c = high := by
    simp only [hr]
    cases low <;> cases high <;>
      simp only [Bool.toNat_true, Bool.toNat_false, decide_eq_true_eq, decide_eq_false_iff_not] at hunits htens ⊢ <;>
      omega
  rw [daa8_of_sub (by rw [hr]), hlow, hhigh, daaAdjust_eq, hr]
  constructor
  · have := low.toNat_le
    have := high.toNat_le
    exact ofNat_eq_bcd hd he (by omega) (by rw [BitVec.toNat_ofNat]; omega)
  · symm
    cases high <;>
      simp only [Bool.toNat_true, Bool.toNat_false, decide_eq_true_eq, decide_eq_false_iff_not] at htens ⊢ <;> omega

/-- `DAA` after an instruction of the shape `alu` adjusts its result by its flags. -/
theorem daa_after_alu {i : Instr} {s : State} {r : Byte × FlagSet} (hexec : exec i s = alu i r s) :
    ∃ t u, exec i s = .next t ∧ exec .daa t = .next u ∧ u.get8 .a = (daa8 r.1 r.2).1 ∧ u.flags = (daa8 r.1 r.2).2 := by
  have hA : (((s.set8 .a r.1).setFlags r.2).addCycles (s.cfg.baseCost i)).get8 .a = r.1 := by simp
  have hF : (((s.set8 .a r.1).setFlags r.2).addCycles (s.cfg.baseCost i)).flags = r.2 := State.flags_setFlags _ _
  refine ⟨_, _, hexec, congrArg₂ (fun a fs => alu .daa (daa8 a fs) _) hA hF, ?_, State.flags_setFlags _ _⟩
  simp

/-- Settles O36: the digits of the sum and of the difference, computed in natural numbers. -/
theorem decimalArithmetic : Obligations.DecimalArithmetic := by
  intro s x y _ ha
  have ha' : s.get8 .a = bcd x.val := ha
  obtain ⟨haddA, haddC⟩ := daa8_add8_bcd x.isLt y.isLt
  obtain ⟨hsubA, hsubC⟩ := daa8_sub8_bcd x.isLt y.isLt
  rw [← ha'] at haddA haddC hsubA hsubC
  obtain ⟨t, u, ht, hu, huA, huF⟩ := daa_after_alu (i := .addAN (bcd y.val)) (s := s) rfl
  obtain ⟨t', u', ht', hu', huA', huF'⟩ := daa_after_alu (i := .subN (bcd y.val)) (s := s) rfl
  exact ⟨⟨t, u, ht, hu, huA.trans haddA, huF ▸ haddC⟩,
    ⟨t', u', ht', hu', huA'.trans hsubA, huF' ▸ hsubC⟩⟩

end Sys2Proof.Machine
end

section
/-!
PROOFS about every step: what runs, what faults, and what each kind of state is written by (10_state.md R49, R53, R71 to
R73; 30_encoding.md R200 to R210; 60_exceptions.md R520).
-/

namespace Sys2Proof.Machine

/-! ### The frame of an instruction -/

/-- What an instruction `i` that began in `s` has left alone in `t`, before its cost is counted. -/
structure Frame (i : Instr) (s t : State) : Prop where
  cfg : t.cfg = s.cfg
  cart : t.cart = s.cart
  cycles : t.cycles = s.cycles
  sink : s.serialOut <+: t.serialOut
  flags : ¬ WritesFlags i → t.regs.f = s.regs.f
  pc : ¬ SetsPc i → t.regs.pc = s.regs.pc
  ime : t.ime ≠ s.ime → i = .di ∨ i = .ei ∨ i = .reti
  running : t.running ≠ s.running → t.running = false ∧ (i = .halt ∨ ∃ n, i = .stop n)

theorem Frame.refl (i : Instr) (s : State) : Frame i s s :=
  ⟨rfl, rfl, rfl, List.prefix_rfl, fun _ => rfl, fun _ => rfl, fun h => absurd rfl h, fun h => absurd rfl h⟩

/-- A change that the instruction may make keeps its frame. -/
theorem Frame.apply {i : Instr} {s t : State} (h : Frame i s t) {c : Change} (hc : c.AllowedBy i) :
    Frame i s (c.apply t) := by
  cases c with
  | reg | pair =>
    exact { h with flags := by simpa [Change.apply] using h.flags, pc := by simpa [Change.apply] using h.pc }
  | flags v => exact { h with flags := fun hn => absurd hc hn }
  | pc w => exact { h with pc := fun hn => absurd hc hn }
  | bus a v =>
    obtain ⟨hregs, hcfg, hcart, hime, hrunning, hcycles⟩ := busWrite_keeps t a v
    have hsink := serialOut_prefix_busWrite t a v
    constructor <;> simp only [Change.apply, hregs, hcfg, hcart, hime, hrunning, hcycles]
    case sink => exact h.sink.trans hsink
    exacts [h.cfg, h.cart, h.cycles, h.flags, h.pc, h.ime, h.running]
  | ime b => exact { h with ime := fun _ => hc }
  | halt => exact { h with running := fun _ => ⟨rfl, hc⟩ }

theorem ActsBy.frame {i : Instr} {cs : State → List Change} (h : ActsBy i cs) (s : State) :
    Frame i s (applyAll (cs s) s) :=
  List.foldlRecOn (motive := Frame i s) (cs s) Change.apply (.refl i s) fun _ ht c hc => ht.apply (h.allowed s c hc)

/-- `i` completes from `s`: within its frame, and then its cost is counted. -/
def CompletesTo (i : Instr) (s t : State) : Prop :=
  ∃ u n, Frame i s u ∧ t = u.addCycles n ∧
    (Taken s i → n = s.cfg.baseCost i + s.cfg.extraCost i) ∧ (¬ Taken s i → n = s.cfg.baseCost i)

theorem Acts.completes {i : Instr} (h : Acts i) (s : State) : ∃ t, exec i s = .next t ∧ CompletesTo i s t := by
  obtain ⟨cs, hcs⟩ := h
  have hframe := hcs.frame s
  by_cases ht : Taken s i
  · refine ⟨_, hcs.taken s ht, _, _, hframe, rfl, fun _ => by rw [hframe.cfg], fun hn => absurd ht hn⟩
  · refine ⟨_, hcs.notTaken s ht, _, _, hframe, rfl, fun hy => absurd hy ht, fun _ => by rw [hframe.cfg]⟩

theorem Acts.completesTo_of_next {i : Instr} (h : Acts i) {s t : State} (hexec : exec i s = .next t) :
    CompletesTo i s t := by
  obtain ⟨u, hu, hc⟩ := h.completes s
  rw [hexec] at hu
  exact Host.Outcome.next.inj hu ▸ hc

theorem Acts.ne_fault {i : Instr} (h : Acts i) (s : State) (r : Fault) : exec i s ≠ .fault r := by
  obtain ⟨u, hu, -⟩ := h.completes s
  rw [hu]
  exact nofun

/-! ### Which instructions have a routine -/

theorem acts_decodeCb (op2 : Byte) : Acts (decodeCb op2) := by
  obtain ⟨-, htable, -⟩ := encode_decodeCb op2
  apply acts <;> intro op h <;> rw [h] at htable <;> exact absurd htable nofun

/-- The instruction of a byte that is not illegal has a routine. -/
theorem acts_decodeOne {b0 : Byte} (h : b0 ∉ illegalOpcodes) (b1 b2 : Byte) : Acts (decodeOne b0 b1 b2) := by
  refine acts _ (decodeOne_ne_prefixCb b0 b1 b2) fun op hop => ?_
  obtain ⟨rfl, hmem⟩ := decodeOne_eq_illegal hop
  exact h hmem

/-- The three kinds of instruction: with a routine, 0xCB before a second byte with a routine, and raising the fault. -/
theorem exec_cases (i : Instr) (s : State) :
    Acts i ∨ (∃ op2, i = .prefixCb op2 ∧ exec i s = exec (decodeCb op2) s) ∨
    (∃ table op addr, exec i s = raiseUnimplemented table op addr s) := by
  by_cases hprefix : ∃ op2, i = .prefixCb op2
  · obtain ⟨op2, rfl⟩ := hprefix
    by_cases hgap : op2 ∈ s.cfg.gapsCb
    · exact .inr (.inr ⟨_, _, _, if_pos hgap⟩)
    · exact .inr (.inl ⟨op2, rfl, exec_prefixCb hgap⟩)
  by_cases hillegal : ∃ op, i = .illegal op
  · obtain ⟨op, rfl⟩ := hillegal
    exact .inr (.inr ⟨_, _, _, rfl⟩)
  · exact .inl (acts i (not_exists.mp hprefix) (not_exists.mp hillegal))

/-! ### The cases of a step -/

/-- The instruction at pc. -/
def instrAt (s : State) : Instr :=
  decodeOne (busRead s s.regs.pc) (busRead s (s.regs.pc + 1)) (busRead s (s.regs.pc + 2))

/-- The state in which the instruction at pc runs. -/
def pastInstr (s : State) : State := s.setPc (s.regs.pc + .ofNat 16 (instrLength (busRead s s.regs.pc)))

theorem step_of_no_gap {s : State} (hrun : s.running = true) (hgap : busRead s s.regs.pc ∉ s.cfg.gapsBase)
    (hgapCb : busRead s s.regs.pc = 0xCB → busRead s (s.regs.pc + 1) ∉ s.cfg.gapsCb) :
    step s = exec (instrAt s) (pastInstr s) := by
  rw [step_running hrun, if_neg hgap, if_neg fun h => hgapCb h.1 h.2]
  rfl

/-- A step at a gap or an illegal byte of the first table: pc is one past the byte (R520). -/
theorem step_missing_base {s : State} (hrun : s.running = true)
    (h : busRead s s.regs.pc ∈ s.cfg.gapsBase ∨ busRead s s.regs.pc ∈ illegalOpcodes) :
    step s = raiseUnimplemented .base (busRead s s.regs.pc) s.regs.pc (s.setPc (s.regs.pc + 1)) := by
  by_cases hgap : busRead s s.regs.pc ∈ s.cfg.gapsBase
  · rw [step_running hrun, if_pos hgap]
  · have hill := h.resolve_left hgap
    have hcb : busRead s s.regs.pc ≠ 0xCB := fun e => absurd (e ▸ hill) (by decide)
    have hback : s.regs.pc + 1 - 1 = s.regs.pc := by bv_omega
    rw [step_of_no_gap hrun hgap fun e => absurd e hcb, instrAt, pastInstr, decodeOne_of_illegal hill,
      instrLength_of_illegal hill]
    show raiseUnimplemented .base _ (s.regs.pc + 1 - 1) _ = _
    rw [hback]
    rfl

/-- A step at a gap of the second table: pc is two past the byte 0xCB (R520). -/
theorem step_missing_cb {s : State} (hrun : s.running = true) (hgap : busRead s s.regs.pc ∉ s.cfg.gapsBase)
    (hcb : busRead s s.regs.pc = 0xCB) (hgapCb : busRead s (s.regs.pc + 1) ∈ s.cfg.gapsCb) :
    step s = raiseUnimplemented .cb (busRead s (s.regs.pc + 1)) s.regs.pc (s.setPc (s.regs.pc + 2)) := by
  rw [step_running hrun, if_neg hgap, if_pos ⟨hcb, hgapCb⟩]

/-- A step of a running console either runs the instruction at pc, which has a routine, or raises the fault and moves pc
only. -/
theorem step_cases {s : State} (hrun : s.running = true) :
    (busRead s s.regs.pc ∉ illegalOpcodes ∧ step s = exec (instrAt s) (pastInstr s)) ∨
    ∃ table op w, step s = raiseUnimplemented table op s.regs.pc (s.setPc w) := by
  by_cases hbase : busRead s s.regs.pc ∈ s.cfg.gapsBase ∨ busRead s s.regs.pc ∈ illegalOpcodes
  · exact .inr ⟨_, _, _, step_missing_base hrun hbase⟩
  obtain ⟨hgap, hlegal⟩ := not_or.mp hbase
  by_cases hcb : busRead s s.regs.pc = 0xCB ∧ busRead s (s.regs.pc + 1) ∈ s.cfg.gapsCb
  · exact .inr ⟨_, _, _, step_missing_cb hrun hgap hcb.1 hcb.2⟩
  · exact .inl ⟨hlegal, step_of_no_gap hrun hgap fun h h' => hcb ⟨h, h'⟩⟩

/-- A step that completes ran the instruction at pc, from the state with pc past it. -/
theorem step_next {s t : State} (hrun : s.running = true) (h : step s = .next t) :
    busRead s s.regs.pc ∉ illegalOpcodes ∧ CompletesTo (instrAt s) (pastInstr s) t := by
  obtain ⟨hlegal, hstep⟩ | ⟨table, op, w, hstep⟩ := step_cases hrun <;> rw [hstep] at h
  · exact ⟨hlegal, (acts_decodeOne hlegal _ _).completesTo_of_next h⟩
  · exact absurd h nofun

/-- A fault moves pc and clears `running`. -/
theorem step_fault {s t : State} {table : OpTable} {op : Byte} {addr : Word}
    (h : step s = .fault (.unimplementedOpcode table op addr t)) : ∃ w, t = (s.setPc w).setRunning false := by
  cases hrun : s.running with
  | false =>
    rw [step_stopped hrun] at h
    exact absurd h nofun
  | true =>
    obtain ⟨hlegal, hstep⟩ | ⟨table, op, w, hstep⟩ := step_cases hrun <;> rw [hstep] at h
    · exact absurd h ((acts_decodeOne hlegal _ _).ne_fault _ _)
    · cases h
      exact ⟨w, rfl⟩

theorem instrAt_of_decode {s : State} {i : Instr} {rest : List Byte}
    (h : decode [busRead s s.regs.pc, busRead s (s.regs.pc + 1), busRead s (s.regs.pc + 2)] = .ok (i, rest)) :
    instrAt s = i := decodeOne_of_decode_three h

/-- The condition of a conditional instruction does not look at pc. -/
theorem taken_pastInstr (s : State) (i : Instr) : Taken (pastInstr s) i ↔ Taken s i := by
  cases i <;> exact Iff.rfl

/-! ### The obligations -/

/-- Settles O4: the step of bytes without a gap, whose length is that of their instruction. -/
theorem stepRunsDecoded : Obligations.StepRunsDecoded := by
  refine ⟨fun s i rest hrun hdec hgap hgapCb => ?_, fun s hstop => ⟨step_stopped hstop, Nat.sub_self _, ?_⟩⟩
  · obtain rfl := instrAt_of_decode hdec
    have hlen : (encode (instrAt s)).length = instrLength (busRead s s.regs.pc) := by
      rw [instrAt, (encode_decodeOne _ _ _).2]
      obtain h | h | h := instrLength_cases (busRead s s.regs.pc) <;> rw [h] <;> rfl
    rw [step_of_no_gap hrun hgap hgapCb, hlen]
    rfl
  · rw [runOneFrame, frameBudget, frameLoop, if_neg]
    simp [hstop]

/-- Settles O5: the two fault points of a step. -/
theorem stepRaisesTheFault : Obligations.StepRaisesTheFault := by
  intro s hrun
  exact ⟨step_missing_base hrun, step_missing_cb hrun⟩

/-- Settles O6: every instruction a step can run has a routine, and a stopped console does nothing. -/
theorem stepCompletes : Obligations.StepCompletes := by
  intro s hgap hlegal hgapCb
  cases hrun : s.running with
  | false => exact ⟨s, step_stopped hrun⟩
  | true =>
    obtain ⟨t, ht, -⟩ := (acts_decodeOne hlegal _ _).completes (pastInstr s)
    exact ⟨t, (step_of_no_gap hrun hgap hgapCb).trans ht⟩

/-- Settles O7: the second dispatch table is the dispatch on the decoded instruction. -/
theorem prefixRunsSecondTable : Obligations.PrefixRunsSecondTable := by
  intro s op2
  refine ⟨decode_of_length_two rfl op2, fun h => ?_, fun h => if_pos h⟩
  obtain ⟨t, ht, -⟩ := (acts_decodeCb op2).completes s
  exact ⟨t, (exec_prefixCb h).trans ht, ht⟩

/-- Settles O55: the frame of an instruction. 0xCB alone runs an instruction of the second table, and none of those is
listed. -/
theorem onlyTheseWriteBookkeeping : Obligations.OnlyTheseWriteBookkeeping := by
  intro i s
  obtain hacts | ⟨op2, rfl, hexec⟩ | ⟨table, op, addr, hexec⟩ := exec_cases i s
  · refine ⟨fun t ht => ?_, fun _ _ _ _ ht => absurd ht (hacts.ne_fault s _)⟩
    obtain ⟨u, n, hu, rfl, -⟩ := hacts.completesTo_of_next ht
    exact ⟨hu.running, hu.ime, hu.cart, hu.cfg⟩
  · have hacts := acts_decodeCb op2
    obtain ⟨-, htable, -⟩ := encode_decodeCb op2
    rw [hexec]
    refine ⟨fun t ht => ?_, fun _ _ _ _ ht => absurd ht (hacts.ne_fault s _)⟩
    obtain ⟨u, n, hu, rfl, -⟩ := hacts.completesTo_of_next ht
    refine ⟨fun h => absurd (hu.running h).2 ?_, fun h => absurd (hu.ime h) ?_, hu.cart, hu.cfg⟩
    · rintro (e | ⟨m, e⟩) <;> rw [e] at htable <;> exact absurd htable nofun
    · rintro (e | e | e) <;> rw [e] at htable <;> exact absurd htable nofun
  · rw [hexec]
    exact ⟨fun _ ht => absurd ht nofun, fun _ _ _ _ ht => by cases ht; rfl⟩

/-- Settles O56: the frame of an instruction. -/
theorem onlyTheseWriteFlags : Obligations.OnlyTheseWriteFlags := by
  intro i s t ht hflags
  obtain hacts | ⟨op2, rfl, -⟩ | ⟨table, op, addr, hexec⟩ := exec_cases i s
  · obtain ⟨u, n, hu, rfl, -⟩ := hacts.completesTo_of_next ht
    exact hu.flags hflags
  · exact absurd trivial hflags
  · rw [hexec] at ht
    exact absurd ht nofun

/-- Settles O57: the frame of the instruction at pc, from the state with pc past it. -/
theorem pcAdvancesByLength : Obligations.PcAdvancesByLength := by
  intro s t i rest hrun hdec hpc hstep
  obtain rfl := instrAt_of_decode hdec
  obtain ⟨-, u, n, hu, rfl, -⟩ := step_next hrun hstep
  rw [BitVec.ofNat_add, BitVec.ofNat_toNat, BitVec.setWidth_eq]
  exact hu.pc hpc

/-- Settles O58: the cost the instruction at pc counts, and its frame. -/
theorem cyclesAndSinkGrow : Obligations.CyclesAndSinkGrow := by
  intro s
  refine ⟨fun t hstep => ?_, fun table op addr t hstep => ?_⟩
  · cases hrun : s.running with
    | false =>
      rw [step_stopped hrun] at hstep
      obtain rfl := Host.Outcome.next.inj hstep
      exact ⟨by rw [stepCost, Nat.sub_self, Nat.add_zero], List.prefix_rfl, fun _ => Nat.sub_self _, nofun⟩
    | true =>
      obtain ⟨-, u, n, hu, rfl, htaken, hnotTaken⟩ := step_next hrun hstep
      have hcycles : (u.addCycles n).cycles = s.cycles + n := congrArg (· + n) hu.cycles
      have hcost : stepCost s (u.addCycles n) = n := by rw [stepCost, hcycles, Nat.add_sub_cancel_left]
      refine ⟨by rw [hcost, hcycles], hu.sink, nofun, fun i rest _ hdec => ?_⟩
      obtain rfl := instrAt_of_decode hdec
      rw [hcost, ← taken_pastInstr]
      exact ⟨htaken, hnotTaken⟩
  · obtain ⟨w, rfl⟩ := step_fault hstep
    exact ⟨rfl, rfl⟩

end Sys2Proof.Machine
end

section
/-!
PROOFS that no instruction reads `ime`, `cycles` or the sink (10_state.md R71 to R73).
-/

namespace Sys2Proof.Machine

/-! ### The changes, on the visible state -/

theorem visible_visible (s : State) : s.visible.visible = s.visible := rfl

theorem dmaCopy_visible (base : Word) (n : Nat) (s : State) :
    dmaCopy base n s.visible = (dmaCopy base n s).visible := by
  induction n with
  | zero => rfl
  | succ n ih =>
    simp only [dmaCopy, ih]
    rfl

theorem visible_ioWriteReg (s : State) (r : IoReg) (v : Byte) :
    (ioWriteReg s.visible r v).visible = (ioWriteReg s r v).visible := by
  by_cases hdma : r = .dma
  · subst hdma
    have hset : s.visible.setIo .dma v = (s.setIo .dma v).visible := rfl
    rw [ioWriteReg, ioWriteReg, hset, dmaCopy_visible, visible_visible]
  by_cases hsc : r = .sc ∧ v.getLsbD 7 = true
  · obtain ⟨rfl, h7⟩ := hsc
    rw [ioWriteReg_transfer _ h7, ioWriteReg_transfer _ h7]
    rfl
  · rw [ioWriteReg_store _ hsc hdma, ioWriteReg_store _ hsc hdma]
    rfl

theorem visible_busWrite (s : State) (a : Word) (v : Byte) :
    (busWrite s.visible a v).visible = (busWrite s a v).visible := by
  cases ha : region a
  case io =>
    cases hr : s.cfg.ioAt a with
    | none =>
      rw [busWrite_unmapped ha hr, busWrite_unmapped ha (show s.visible.cfg.ioAt a = none from hr), visible_visible]
    | some r =>
      rw [busWrite_mapped ha hr, busWrite_mapped ha (show s.visible.cfg.ioAt a = some r from hr), visible_ioWriteReg]
  case cram =>
    have hcart : s.visible.cart = s.cart := rfl
    simp only [busWrite, ha, hcart]
    split <;> rfl
  all_goals
    simp only [busWrite, ha]
    rfl

theorem Change.visible_apply (c : Change) (s : State) : (c.apply s.visible).visible = (c.apply s).visible := by
  cases c with
  | bus a v => exact visible_busWrite s a v
  | reg | pair | flags | pc | ime | halt => rfl

theorem visible_applyAll (cs : List Change) {s t : State} (h : s.visible = t.visible) :
    (applyAll cs s).visible = (applyAll cs t).visible := by
  induction cs generalizing s t with
  | nil => exact h
  | cons c cs ih => exact ih (by rw [← c.visible_apply s, ← c.visible_apply t, h])

/-! ### The instructions and the step -/

/-- The condition of a conditional instruction is in the flags. -/
theorem taken_visible (s : State) (i : Instr) : Taken s.visible i ↔ Taken s i := by
  cases i <;> exact Iff.rfl

/-- What an instruction with a routine does to the visible state does not depend on the rest. -/
theorem Acts.visible_exec {i : Instr} (h : Acts i) (s : State) :
    visibleResult (exec i s.visible) = visibleResult (exec i s) := by
  obtain ⟨cs, hcs⟩ := h
  have hsame : (applyAll (cs s) s.visible).visible = (applyAll (cs s) s).visible := visible_applyAll _ rfl
  by_cases ht : Taken s i
  · rw [hcs.taken s ht, hcs.taken _ ((taken_visible s i).mpr ht), hcs.unseen]
    exact congrArg Host.Outcome.next hsame
  · rw [hcs.notTaken s ht, hcs.notTaken _ (mt (taken_visible s i).mp ht), hcs.unseen]
    exact congrArg Host.Outcome.next hsame

theorem visible_step (s : State) : visibleResult (step s.visible) = visibleResult (step s) := by
  cases hrun : s.running with
  | false =>
    have hrun' : s.visible.running = false := hrun
    rw [step_stopped hrun, step_stopped hrun']
    rfl
  | true =>
    have hrun' : s.visible.running = true := hrun
    by_cases hbase : busRead s s.regs.pc ∈ s.cfg.gapsBase ∨ busRead s s.regs.pc ∈ illegalOpcodes
    · rw [step_missing_base hrun hbase, step_missing_base hrun' hbase]
      rfl
    obtain ⟨hgap, hlegal⟩ := not_or.mp hbase
    by_cases hcb : busRead s s.regs.pc = 0xCB ∧ busRead s (s.regs.pc + 1) ∈ s.cfg.gapsCb
    · rw [step_missing_cb hrun hgap hcb.1 hcb.2, step_missing_cb hrun' hgap hcb.1 hcb.2]
      rfl
    · have hgapCb := fun h h' => hcb ⟨h, h'⟩
      rw [step_of_no_gap hrun hgap hgapCb, step_of_no_gap hrun' hgap hgapCb]
      exact (acts_decodeOne hlegal _ _).visible_exec (pastInstr s)

/-- Settles O59: both steps are the step of the visible state. -/
theorem hiddenStateUnseen : Obligations.HiddenStateUnseen := by
  intro s t h
  rw [← visible_step s, ← visible_step t, h]

end Sys2Proof.Machine
end

section
/-!
PROOFS of the frame run: with the default costs a step costs 1 to 6 cycles (70_reset_and_hazards.md R581, R600).
-/

namespace Sys2Proof.Machine

/-! ### The default costs -/

/-- Entries of two tables that are bounded together entry by entry. -/
theorem getD_add_getD_le {l m : List Nat} {bound : Nat} (h : ∀ n ∈ List.zipWith (· + ·) l m, n ≤ bound) {k : Nat}
    (hl : k < l.length) (hm : k < m.length) : l.getD k 0 + m.getD k 0 ≤ bound := by
  rw [List.getD_eq_getElem _ _ hl, List.getD_eq_getElem _ _ hm]
  have hk : k < (List.zipWith (· + ·) l m).length := by rw [List.length_zipWith]; omega
  have hmem := List.getElem_mem hk
  rw [List.getElem_zipWith] at hmem
  exact h _ hmem

set_option maxRecDepth 4000 in
/-- The default parameters are what the spec asks of parameters (D3, R80, R600). -/
theorem default_wf : Config.default.wf := by decide

set_option maxRecDepth 4000 in
/-- No entry of the two default cost tables is above 6, with the extra cost (R600). -/
theorem defaultCost_le (op : Byte) :
    Config.defaultBaseCost.getD op.toNat 0 + Config.defaultExtraCost.getD op.toNat 0 ≤ 6 ∧
    Config.defaultCbCost.getD op.toNat 0 + Config.defaultExtraCost.getD op.toNat 0 ≤ 6 := by
  obtain ⟨-, -, -, -, hbase, hextra, hcb, -⟩ := default_wf
  exact ⟨getD_add_getD_le (by decide) (hbase ▸ op.isLt) (hextra ▸ op.isLt),
    getD_add_getD_le (by decide) (hcb ▸ op.isLt) (hextra ▸ op.isLt)⟩

/-- The bytes whose entry in the base table is no cost. -/
theorem mem_illegalOpcodes_of_toNat_mem (op : Byte)
    (h : op.toNat ∈ [0xCB, 0xD3, 0xDB, 0xDD, 0xE3, 0xE4, 0xEB, 0xEC, 0xED, 0xF4, 0xFC, 0xFD]) :
    op = 0xCB ∨ op ∈ illegalOpcodes := by
  revert op
  decide

/-- Every defined opcode costs at least 1, as the spec asks of parameters (R600). -/
theorem defaultCost_pos (op : Byte) :
    (op ∉ illegalOpcodes → op ≠ 0xCB → 1 ≤ Config.defaultBaseCost.getD op.toNat 0) ∧
    1 ≤ Config.defaultCbCost.getD op.toNat 0 := by
  obtain ⟨-, -, -, -, -, -, hlen, -, hbase, hcb⟩ := default_wf
  have hop : op.toNat < Config.defaultCbCost.length := hlen ▸ op.isLt
  refine ⟨fun hlegal hne => ?_, ?_⟩
  · refine (hbase op.toNat (List.mem_range.mpr op.isLt)).resolve_left fun hmem => ?_
    exact (mem_illegalOpcodes_of_toNat_mem op hmem).elim hne hlegal
  · rw [List.getD_eq_getElem _ _ hop]
    exact hcb _ (List.getElem_mem hop)

/-- The first byte of an unprefixed instruction is the byte its row matches on, and not 0xCB. -/
theorem matchedByte_decodeOne {b0 b1 b2 : Byte} (htable : (decodeOne b0 b1 b2).table = .base) :
    (decodeOne b0 b1 b2).matchedByte = b0 ∧ b0 ≠ 0xCB := by
  constructor
  · obtain ⟨-, hbytes⟩ := encode_decodeOne b0 b1 b2
    simp only [encode, htable] at hbytes
    obtain hlen | hlen | hlen := instrLength_cases b0 <;> rw [hlen] at hbytes <;>
      exact List.head_eq_of_cons_eq hbytes
  · rintro rfl
    obtain ⟨-, hcb, -⟩ := encode_decodeCb b1
    exact absurd (hcb.symm.trans htable) nofun

section DefaultCost
variable {cfg : Config} (hcfg : cfg.cost = Config.defaultCost)
include hcfg

theorem cost_le (i : Instr) : cfg.baseCost i + cfg.extraCost i ≤ 6 := by
  obtain ⟨hbase, hcb⟩ := defaultCost_le i.matchedByte
  simp only [Config.baseCost, Config.extraCost, hcfg]
  cases i.table
  · exact hbase
  · exact hcb

theorem cost_pos {b0 : Byte} (hlegal : b0 ∉ illegalOpcodes) (b1 b2 : Byte) :
    1 ≤ cfg.baseCost (decodeOne b0 b1 b2) := by
  cases htable : (decodeOne b0 b1 b2).table with
  | base =>
    obtain ⟨hbyte, hcb⟩ := matchedByte_decodeOne htable
    simp only [Config.baseCost, htable, hbyte, hcfg]
    exact (defaultCost_pos b0).1 hlegal hcb
  | cb =>
    simp only [Config.baseCost, htable, hcfg]
    exact (defaultCost_pos _).2

end DefaultCost

/-- A step of a running console that completes costs 1 to 6 cycles and keeps the parameters. -/
theorem step_cost_bounds {s t : State} (hcfg : s.cfg.cost = Config.defaultCost) (hrun : s.running = true)
    (hstep : step s = .next t) : s.cycles + 1 ≤ t.cycles ∧ t.cycles ≤ s.cycles + 6 ∧ t.cfg = s.cfg := by
  obtain ⟨hlegal, u, n, hu, rfl, htaken, hnotTaken⟩ := step_next hrun hstep
  have hcycles : (u.addCycles n).cycles = s.cycles + n := congrArg (· + n) hu.cycles
  have hle := cost_le hcfg (instrAt s)
  have hpos : 1 ≤ s.cfg.baseCost (instrAt s) := cost_pos hcfg hlegal _ _
  have hbase : (pastInstr s).cfg = s.cfg := rfl
  rw [hbase] at htaken hnotTaken
  by_cases ht : Taken (pastInstr s) (instrAt s)
  · have := htaken ht
    exact ⟨by omega, by omega, hu.cfg⟩
  · have := hnotTaken ht
    exact ⟨by omega, by omega, hu.cfg⟩

/-! ### The loop -/

/-- The frame loop from `elapsed` cycles, with fuel for what is left of the budget: it ends less than one step past the
budget, and short of it only when the console has stopped. -/
theorem frameLoop_bounds (fuel elapsed : Nat) {s t : State} (hcfg : s.cfg.cost = Config.defaultCost)
    (hfuel : frameBudget ≤ elapsed + fuel) (hloop : frameLoop fuel elapsed s = .next t) :
    s.cycles ≤ t.cycles ∧ (elapsed ≤ frameBudget + 5 → elapsed + t.cycles ≤ s.cycles + (frameBudget + 5)) ∧
    (t.running = true → s.cycles + frameBudget ≤ elapsed + t.cycles) := by
  induction fuel generalizing elapsed s with
  | zero =>
    obtain rfl := Host.Outcome.next.inj hloop
    omega
  | succ fuel ih =>
    rw [frameLoop] at hloop
    split at hloop
    case isFalse hend =>
      obtain rfl := Host.Outcome.next.inj hloop
      refine ⟨le_rfl, by omega, fun hrun => ?_⟩
      have : ¬ elapsed < frameBudget := fun h => hend ⟨h, hrun⟩
      omega
    case isTrue hgo =>
      obtain ⟨hbudget, hrun⟩ := hgo
      cases hstep : step s with
      | next u =>
        obtain ⟨hpos, hle, hkeep⟩ := step_cost_bounds hcfg hrun hstep
        simp only [hstep] at hloop
        have hcost : s.cycles + stepCost s u = u.cycles := Nat.add_sub_of_le (by omega)
        obtain ⟨hgrow, hmost, hleast⟩ := ih (elapsed + stepCost s u) (by rw [hkeep, hcfg]) (by omega) hloop
        refine ⟨by omega, fun _ => ?_, fun hrun' => ?_⟩
        · have := hmost (by omega)
          omega
        · have := hleast hrun'
          omega
      | fault r => simp [hstep] at hloop
      | refused r => simp [hstep] at hloop

/-- Settles O60: the frame loop from 0 cycles. -/
theorem frameRunBounds : Obligations.FrameRunBounds := by
  intro s t hcfg hrun
  obtain ⟨hgrow, hmost, hleast⟩ := frameLoop_bounds frameBudget 0 hcfg (Nat.le_add_left _ _) hrun
  have hmost' := hmost (Nat.zero_le _)
  simp only [frameBudget, Nat.zero_add] at hmost' hleast
  exact ⟨hgrow, hmost', hleast⟩

end Sys2Proof.Machine
end
